-- ==== Sys2Proof/Word.lean ====
section
/-! DEFINITION. The bit-vector types of the core: bytes, 16-bit words, and the fields of an opcode
(00_scope.md R8, R9; 30_encoding.md R101). -/

namespace Sys2Proof

/-- A byte: the width of V0..VF and of a memory cell (R8, R70). -/
abbrev Byte := BitVec 8

/-- A 16-bit word: the width of PC, of I, of a stack entry and of an opcode (R9, R39, R100). -/
abbrev Word := BitVec 16

/-- A 4-bit opcode field: T, N and the minor opcodes (R101). -/
abbrev Nibble := BitVec 4

/-- A register index, the field X or Y: 0 to 15, naming V0..VF (R31, R101). -/
abbrev RegIdx := BitVec 4

/-- The 12-bit address field NNN (R101). -/
abbrev Addr12 := BitVec 12

end Sys2Proof
end

