-- ==== Sys2Proof/Syntax.lean ====
section
/-! DEFINITION. The 35 instructions of the core (30_encoding.md R104), one constructor per row of the opcode
table, each with its operand fields at their encoded widths (R101, R102). -/

namespace Sys2Proof

/-- The instructions. Operands are named X, Y (register indices), N, NN, NNN as in R101. -/
inductive Instr where
  /-- 00E0, CLS (R211). -/
  | cls
  /-- 00EE, RET (R332). -/
  | ret
  /-- 0NNN, SYS NNN, for NNN other than 0E0 and 0EE (R331). -/
  | sys (nnn : Addr12)
  /-- 1NNN, JP NNN (R333). -/
  | jp (nnn : Addr12)
  /-- 2NNN, CALL NNN (R334). -/
  | call (nnn : Addr12)
  /-- 3XNN, SE VX, NN (R336). -/
  | seImm (x : RegIdx) (nn : Byte)
  /-- 4XNN, SNE VX, NN (R337). -/
  | sneImm (x : RegIdx) (nn : Byte)
  /-- 5XY0, SE VX, VY (R338). -/
  | seReg (x y : RegIdx)
  /-- 6XNN, LD VX, NN (R161). -/
  | ldImm (x : RegIdx) (nn : Byte)
  /-- 7XNN, ADD VX, NN (R162). -/
  | addImm (x : RegIdx) (nn : Byte)
  /-- 8XY0, LD VX, VY (R163). -/
  | ldReg (x y : RegIdx)
  /-- 8XY1, OR VX, VY (R164). -/
  | orReg (x y : RegIdx)
  /-- 8XY2, AND VX, VY (R165). -/
  | andReg (x y : RegIdx)
  /-- 8XY3, XOR VX, VY (R166). -/
  | xorReg (x y : RegIdx)
  /-- 8XY4, ADD VX, VY (R167). -/
  | addReg (x y : RegIdx)
  /-- 8XY5, SUB VX, VY (R168). -/
  | subReg (x y : RegIdx)
  /-- 8XY6, SHR VX, VY (R169). -/
  | shr (x y : RegIdx)
  /-- 8XY7, SUBN VX, VY (R171). -/
  | subn (x y : RegIdx)
  /-- 8XYE, SHL VX, VY (R170). -/
  | shl (x y : RegIdx)
  /-- 9XY0, SNE VX, VY (R339). -/
  | sneReg (x y : RegIdx)
  /-- ANNN, LD I, NNN (R301). -/
  | ldI (nnn : Addr12)
  /-- BNNN, JP V0, NNN (R335). -/
  | jpV0 (nnn : Addr12)
  /-- CXNN, RND VX, NN (R172). -/
  | rnd (x : RegIdx) (nn : Byte)
  /-- DXYN, DRW VX, VY, N (R212). -/
  | drw (x y : RegIdx) (n : Nibble)
  /-- EX9E, SKP VX (R247). -/
  | skp (x : RegIdx)
  /-- EXA1, SKNP VX (R248). -/
  | sknp (x : RegIdx)
  /-- FX07, LD VX, DT (R277). -/
  | ldVxDt (x : RegIdx)
  /-- FX0A, LD VX, K (R249). -/
  | ldVxK (x : RegIdx)
  /-- FX15, LD DT, VX (R278). -/
  | ldDtVx (x : RegIdx)
  /-- FX18, LD ST, VX (R280). -/
  | ldStVx (x : RegIdx)
  /-- FX1E, ADD I, VX (R302). -/
  | addI (x : RegIdx)
  /-- FX29, LD F, VX (R303). -/
  | ldF (x : RegIdx)
  /-- FX33, LD B, VX (R304). -/
  | ldB (x : RegIdx)
  /-- FX55, LD [I], VX (R305). -/
  | ldMemVx (x : RegIdx)
  /-- FX65, LD VX, [I] (R306). -/
  | ldVxMem (x : RegIdx)
  deriving DecidableEq, Repr

end Sys2Proof
end

