-- ==== Sys2Proof/WellFormed.lean ====
section
/-! DEFINITION. Which terms of Instr stand for an instruction word. Operands have their encoded widths by type,
so one check is left: 0NNN is SYS only for NNN other than 0E0 and 0EE, which are CLS and RET (30_encoding.md
R104, R105). -/

namespace Sys2Proof

/-- The check: a SYS carries neither the NNN of 00E0 nor that of 00EE. -/
def Instr.wellFormed : Instr → Bool
  | .sys nnn => decide (nnn ≠ 0x0E0#12) && decide (nnn ≠ 0x0EE#12)
  | .cls | .ret | .jp _ | .call _ | .seImm _ _ | .sneImm _ _ | .seReg _ _ | .ldImm _ _ | .addImm _ _
  | .ldReg _ _ | .orReg _ _ | .andReg _ _ | .xorReg _ _ | .addReg _ _ | .subReg _ _ | .shr _ _ | .subn _ _
  | .shl _ _ | .sneReg _ _ | .ldI _ | .jpV0 _ | .rnd _ _ | .drw _ _ _ | .skp _ | .sknp _ | .ldVxDt _
  | .ldVxK _ | .ldDtVx _ | .ldStVx _ | .addI _ | .ldF _ | .ldB _ | .ldMemVx _ | .ldVxMem _ => true

end Sys2Proof
end

