-- ==== Sys2Proof/Decode.lean ====
section
/-! DEFINITION. The decoder, total on every word and on every list of bytes, rejecting by name, and after it the
encoder, both written from the formats and the opcode map of 30_encoding.md (R100 to R106). -/

namespace Sys2Proof

/-! ### The fields of an opcode (R101) -/

/-- T, the top nibble, op[15:12]. -/
def fieldT (op : Word) : Nibble := op.extractLsb' 12 4

/-- X, op[11:8]. -/
def fieldX (op : Word) : RegIdx := op.extractLsb' 8 4

/-- Y, op[7:4]. -/
def fieldY (op : Word) : RegIdx := op.extractLsb' 4 4

/-- N, op[3:0]. -/
def fieldN (op : Word) : Nibble := op.extractLsb' 0 4

/-- NN, op[7:0]. -/
def fieldNN (op : Word) : Byte := op.extractLsb' 0 8

/-- NNN, op[11:0]. -/
def fieldNNN (op : Word) : Addr12 := op.extractLsb' 0 12

/-! ### Decoding (R105) -/

/-- Why a word or a byte list is no instruction: the five classes of illegal words of R106, by name, and a byte
list shorter than one opcode (R100). -/
inductive DecodeError where
  /-- 5XYn with n ≠ 0. -/
  | illegal5XYn (op : Word)
  /-- 8XYn with n one of 8, 9, A, B, C, D, F. -/
  | illegal8XYn (op : Word)
  /-- 9XYn with n ≠ 0. -/
  | illegal9XYn (op : Word)
  /-- EXnn with nn neither 9E nor A1. -/
  | illegalEXnn (op : Word)
  /-- FXnn with nn none of 07, 0A, 15, 18, 1E, 29, 33, 55, 65. -/
  | illegalFXnn (op : Word)
  /-- Fewer than two bytes. -/
  | truncated
  deriving DecidableEq, Repr

/-- The words of major opcode 8, by their low nibble. -/
def decode8 (op : Word) : Except DecodeError Instr :=
  match (fieldN op).toNat with
  | 0x0 => .ok (.ldReg (fieldX op) (fieldY op))
  | 0x1 => .ok (.orReg (fieldX op) (fieldY op))
  | 0x2 => .ok (.andReg (fieldX op) (fieldY op))
  | 0x3 => .ok (.xorReg (fieldX op) (fieldY op))
  | 0x4 => .ok (.addReg (fieldX op) (fieldY op))
  | 0x5 => .ok (.subReg (fieldX op) (fieldY op))
  | 0x6 => .ok (.shr (fieldX op) (fieldY op))
  | 0x7 => .ok (.subn (fieldX op) (fieldY op))
  | 0xE => .ok (.shl (fieldX op) (fieldY op))
  | _ => .error (.illegal8XYn op)

/-- The words of major opcode E, by their low byte. -/
def decodeE (op : Word) : Except DecodeError Instr :=
  match (fieldNN op).toNat with
  | 0x9E => .ok (.skp (fieldX op))
  | 0xA1 => .ok (.sknp (fieldX op))
  | _ => .error (.illegalEXnn op)

/-- The words of major opcode F, by their low byte. -/
def decodeF (op : Word) : Except DecodeError Instr :=
  match (fieldNN op).toNat with
  | 0x07 => .ok (.ldVxDt (fieldX op))
  | 0x0A => .ok (.ldVxK (fieldX op))
  | 0x15 => .ok (.ldDtVx (fieldX op))
  | 0x18 => .ok (.ldStVx (fieldX op))
  | 0x1E => .ok (.addI (fieldX op))
  | 0x29 => .ok (.ldF (fieldX op))
  | 0x33 => .ok (.ldB (fieldX op))
  | 0x55 => .ok (.ldMemVx (fieldX op))
  | 0x65 => .ok (.ldVxMem (fieldX op))
  | _ => .error (.illegalFXnn op)

/-- The words of major opcode 0: the two exact words, and SYS for every other. -/
def decode0 (op : Word) : Instr :=
  if op = 0x00E0#16 then .cls else if op = 0x00EE#16 then .ret else .sys (fieldNNN op)

/-- R105: the decoder, a total function of the opcode alone (R133). T has 16 values, and the last arm is T = F. -/
def decodeWord (op : Word) : Except DecodeError Instr :=
  match (fieldT op).toNat with
  | 0x0 => .ok (decode0 op)
  | 0x1 => .ok (.jp (fieldNNN op))
  | 0x2 => .ok (.call (fieldNNN op))
  | 0x3 => .ok (.seImm (fieldX op) (fieldNN op))
  | 0x4 => .ok (.sneImm (fieldX op) (fieldNN op))
  | 0x5 => if fieldN op = 0#4 then .ok (.seReg (fieldX op) (fieldY op)) else .error (.illegal5XYn op)
  | 0x6 => .ok (.ldImm (fieldX op) (fieldNN op))
  | 0x7 => .ok (.addImm (fieldX op) (fieldNN op))
  | 0x8 => decode8 op
  | 0x9 => if fieldN op = 0#4 then .ok (.sneReg (fieldX op) (fieldY op)) else .error (.illegal9XYn op)
  | 0xA => .ok (.ldI (fieldNNN op))
  | 0xB => .ok (.jpV0 (fieldNNN op))
  | 0xC => .ok (.rnd (fieldX op) (fieldNN op))
  | 0xD => .ok (.drw (fieldX op) (fieldY op) (fieldN op))
  | 0xE => decodeE op
  | _ => decodeF op

/-- R100, R76: an opcode is two bytes, high byte first. -/
def composeWord (hi lo : Byte) : Word := hi ++ lo

/-- The high and the low byte of an opcode, in the order they stand in memory (R76). -/
def wordBytes (op : Word) : List Byte := [op.extractLsb' 8 8, op.extractLsb' 0 8]

/-- Decode the first instruction of a list of bytes, giving the bytes after it. -/
def decodeBytes : List Byte → Except DecodeError (Instr × List Byte)
  | hi :: lo :: rest => (decodeWord (composeWord hi lo)).map (·, rest)
  | [_] | [] => .error .truncated

/-! ### Encoding (R102, R104) -/

/-- Format A: T, NNN. -/
def formA (t : Nibble) (nnn : Addr12) : Word := t ++ nnn

/-- Format XNN: T, X, NN; with NN fixed it is format X. -/
def formXNN (t : Nibble) (x : RegIdx) (nn : Byte) : Word := t ++ x ++ nn

/-- Format XYN: T, X, Y, N; with N fixed it is format XY. -/
def formXYN (t : Nibble) (x y : RegIdx) (n : Nibble) : Word := t ++ x ++ y ++ n

/-- The word of a well-formed instruction (every instruction has exactly one, R100). -/
def encode : Instr → Word
  | .cls => 0x00E0#16
  | .ret => 0x00EE#16
  | .sys nnn => formA 0x0#4 nnn
  | .jp nnn => formA 0x1#4 nnn
  | .call nnn => formA 0x2#4 nnn
  | .seImm x nn => formXNN 0x3#4 x nn
  | .sneImm x nn => formXNN 0x4#4 x nn
  | .seReg x y => formXYN 0x5#4 x y 0x0#4
  | .ldImm x nn => formXNN 0x6#4 x nn
  | .addImm x nn => formXNN 0x7#4 x nn
  | .ldReg x y => formXYN 0x8#4 x y 0x0#4
  | .orReg x y => formXYN 0x8#4 x y 0x1#4
  | .andReg x y => formXYN 0x8#4 x y 0x2#4
  | .xorReg x y => formXYN 0x8#4 x y 0x3#4
  | .addReg x y => formXYN 0x8#4 x y 0x4#4
  | .subReg x y => formXYN 0x8#4 x y 0x5#4
  | .shr x y => formXYN 0x8#4 x y 0x6#4
  | .subn x y => formXYN 0x8#4 x y 0x7#4
  | .shl x y => formXYN 0x8#4 x y 0xE#4
  | .sneReg x y => formXYN 0x9#4 x y 0x0#4
  | .ldI nnn => formA 0xA#4 nnn
  | .jpV0 nnn => formA 0xB#4 nnn
  | .rnd x nn => formXNN 0xC#4 x nn
  | .drw x y n => formXYN 0xD#4 x y n
  | .skp x => formXNN 0xE#4 x 0x9E#8
  | .sknp x => formXNN 0xE#4 x 0xA1#8
  | .ldVxDt x => formXNN 0xF#4 x 0x07#8
  | .ldVxK x => formXNN 0xF#4 x 0x0A#8
  | .ldDtVx x => formXNN 0xF#4 x 0x15#8
  | .ldStVx x => formXNN 0xF#4 x 0x18#8
  | .addI x => formXNN 0xF#4 x 0x1E#8
  | .ldF x => formXNN 0xF#4 x 0x29#8
  | .ldB x => formXNN 0xF#4 x 0x33#8
  | .ldMemVx x => formXNN 0xF#4 x 0x55#8
  | .ldVxMem x => formXNN 0xF#4 x 0x65#8

/-- The bytes of a well-formed instruction, as they stand in memory. -/
def encodeBytes (i : Instr) : List Byte := wordBytes (encode i)

/-! ### The host's question -/

/-- The instruction the decoder reads from an instruction whose bits are w, numbered as spec/opcode_table.json
numbers them (one 16-bit word; every bit above nbits is 0). -/
def decodeTableWord (nbits w : Nat) : Option Instr :=
  match decodeBytes (wordBytes (BitVec.ofNat 16 (w % 2 ^ nbits))) with
  | .ok (i, _) => some i
  | .error _ => none

end Sys2Proof
end

