-- ==== Sys2Proof/Config.lean ====
section
/-! DEFINITION. The implementation parameters of 00_scope.md R15, and the free values: the inputs on which
the spec puts no law (the clock, the random source, the parameters it leaves open). -/

namespace Sys2Proof

/-- SCREEN_OOB: what a draw does with start coordinates outside the grid (R15, R203). -/
inductive OobPolicy where
  | wrap
  | reject
  deriving DecidableEq, Repr

/-- SYS_MODE: what 0NNN does (R15, R331). -/
inductive SysMode where
  | nop
  | fatal
  deriving DecidableEq, Repr

/-- VF_ORDER: which write wins when the destination of a flag-writing instruction is VF (R15, R175). -/
inductive FlagOrder where
  | flagLast
  | flagFirst
  deriving DecidableEq, Repr

/-- The configuration, fixed when the core is built (R15, R51). -/
structure Config where
  /-- FREQUENCY, instructions per second; 0 is unlimited. -/
  frequency : Nat
  /-- ALT_SHIFT, the alternate shift quirk of 8XY6 and 8XYE. -/
  altShift : Bool
  /-- ALT_INDEX, the alternate index quirk of FX55 and FX65. -/
  altIndex : Bool
  /-- SCREEN_WRAP, whether pixels and rows past an edge wrap. -/
  screenWrap : Bool
  /-- SCREEN_OOB. -/
  screenOob : OobPolicy
  /-- WAIT_RELEASE_ONLY: FX0A accepts only key-release events. -/
  waitReleaseOnly : Bool
  /-- WAIT_TIMEOUT: FX0A's deadline in milliseconds, or none. -/
  waitTimeout : Option Nat
  /-- STACK_LIMIT: the bound on the call stack's depth, or none. -/
  stackLimit : Option Nat
  /-- FONT_BASE: where the font sits. -/
  fontBase : Word
  /-- FONT_TABLE: the 80 glyph bytes. -/
  fontTable : Vector Byte 80
  /-- SYS_MODE. -/
  sysMode : SysMode
  /-- VF_ORDER. -/
  vfOrder : FlagOrder
  /-- EXIT_STATUS: the exit status after a fatal error. -/
  exitStatus : Int
  deriving DecidableEq, Repr

/-- The parameter ranges of R15: EXIT_STATUS is nonzero, and the 80 font bytes lie in memory (R13, R7). -/
def Config.wf (c : Config) : Bool :=
  decide (c.exitStatus ≠ 0) && decide (c.fontBase.toNat + 80 ≤ 4096)

/-- FREE VALUE (log 4). How many nanoseconds the clock is found to have advanced at the n-th clock read:
any amount (R38, U9). -/
opaque Config.freeElapsed : Nat → Nat

/-- FREE VALUE (log 5). The clock reading at construction (R49, R440). -/
opaque Config.freeStartTime : Nat

/-- FREE VALUE (log 6). The n-th byte of the random source: any byte, under no law (R173, U8). -/
opaque Config.freeRandom : Nat → Byte

/-- FREE VALUE (log 3). WAIT_RELEASE_ONLY of the reset configuration: the spec leaves it OPEN (R15, U4). -/
opaque Config.freeWaitReleaseOnly : Bool

/-- FREE VALUE (log 3). EXIT_STATUS of the reset configuration: any nonzero integer (R15, U14). -/
opaque Config.freeExitStatus : Int

end Sys2Proof
end

