-- ==== Sys2Proof/Machine/Params.lean ====
section
/-! DEFINITION. The memory map and the reset configuration: the sizes and defaults of 00_scope.md R7 to R15, the
font of 10_state.md R62, and what a byte of memory holds at reset (R61). -/

namespace Sys2Proof.Machine

/-- The number of bytes of memory (R7). -/
def memSize : Nat := 4096

/-- PROGRAM_BASE, where programs are loaded (R14) and where PC starts (R61, R442). -/
def programBase : Word := 0x200#16

/-- The number of font bytes (R13). -/
def fontSize : Nat := 80

/-- R62: the default FONT_TABLE, five bytes a glyph, glyphs 0 to F in order. -/
def standardFont : Vector Byte 80 :=
  #v[0xF0#8, 0x90#8, 0x90#8, 0x90#8, 0xF0#8,  0x20#8, 0x60#8, 0x20#8, 0x20#8, 0x70#8,
     0xF0#8, 0x10#8, 0xF0#8, 0x80#8, 0xF0#8,  0xF0#8, 0x10#8, 0xF0#8, 0x10#8, 0xF0#8,
     0x90#8, 0x90#8, 0xF0#8, 0x10#8, 0x10#8,  0xF0#8, 0x80#8, 0xF0#8, 0x10#8, 0xF0#8,
     0xF0#8, 0x80#8, 0xF0#8, 0x90#8, 0xF0#8,  0xF0#8, 0x10#8, 0x20#8, 0x40#8, 0x40#8,
     0xF0#8, 0x90#8, 0xF0#8, 0x90#8, 0xF0#8,  0xF0#8, 0x90#8, 0xF0#8, 0x10#8, 0xF0#8,
     0xF0#8, 0x90#8, 0xF0#8, 0x90#8, 0x90#8,  0xE0#8, 0x90#8, 0xE0#8, 0x90#8, 0xE0#8,
     0xF0#8, 0x80#8, 0x80#8, 0x80#8, 0xF0#8,  0xE0#8, 0x90#8, 0x90#8, 0x90#8, 0xE0#8,
     0xF0#8, 0x80#8, 0xF0#8, 0x80#8, 0xF0#8,  0xF0#8, 0x80#8, 0xF0#8, 0x80#8, 0x80#8]

/-- "Any nonzero integer" (R15): every nonzero integer is the value of some argument. -/
def nonzeroStatus (z : Int) : Int := if z = 0 then 1 else z

/-- The configuration of the reset state: the defaults of R15 and 95_test_vectors.md (log 2), with the two
parameters that have no default left free (log 3). -/
def standardConfig : Config where
  frequency := 0
  altShift := false
  altIndex := false
  screenWrap := false
  screenOob := .wrap
  waitReleaseOnly := Config.freeWaitReleaseOnly
  waitTimeout := none
  stackLimit := none
  fontBase := 0x000#16
  fontTable := standardFont
  sysMode := .nop
  vfOrder := .flagLast
  exitStatus := nonzeroStatus Config.freeExitStatus

/-- What the byte at an address holds at reset, and so what an unlisted address reads as: the font at FONT_BASE,
0 elsewhere (R61, R82; log 9). -/
def initialByte (cfg : Config) (a : Nat) : Byte :=
  if cfg.fontBase.toNat ≤ a then (cfg.fontTable[a - cfg.fontBase.toNat]?).getD 0#8 else 0#8

end Sys2Proof.Machine
end

