-- ==== Sys2Proof/Machine/State.lean ====
section
/-! DEFINITION. The state of the block (10_state.md), the reasons a step can stop, and the state after reset
(10_state.md R61; 70_reset_and_hazards.md R440, R441). -/

namespace Sys2Proof.Machine

/-- Why the machine stops. -/
inductive Fault where
  /-- Raised by step on a HALTED state, which takes no further step (R148, R402): the machine has ended with this
  exit status. Safe: the spec gives no step after it. -/
  | halted (status : Int)
  deriving DecidableEq, Repr

/-- Why a step has no meaning. -/
inductive Refusal where
  /-- Raised by exec for an instruction without a meaning (no arm raises it). Safe. -/
  | notModelled (mnemonic : String)
  /-- Raised by step on the move `cancel`: the host ended the session, and the spec gives no state after it (R415,
  U21; log 17). Safe. -/
  | cancelled
  /-- Raised by step on the move `load` once the CPU has stepped, a host move the spec assumes never happens (R63,
  U22; log 16). Safe in the model; a host that does it is outside the spec. -/
  | loadAfterStart
  deriving DecidableEq, Repr

/-- The grid of one-bit pixels, grid[y][x], 32 rows of 64 (R10, R42). -/
abbrev Grid := Vector (Vector Bool 64) 32

/-- A key change: the key's index and its new status (R46). -/
structure KeyEvent where
  key : Fin 16
  pressed : Bool
  deriving DecidableEq, Repr

/-- The run state (R50). -/
inductive RunState where
  /-- RUNNING. -/
  | running
  /-- WAITING_KEY(x, t_end): executing FX0A with destination register x. -/
  | waitingKey (x : RegIdx) (tEnd : Option Nat)
  /-- HALTED(status): stopped for good after a fatal error. -/
  | halted (status : Int)
  deriving DecidableEq, Repr

/-- A record of the diagnostic port: its code and the values R401 lists for it (R58, R403; log 12). -/
inductive Diagnostic where
  /-- Fatal: a word that decodes to Illegal, or 0NNN under SYS_MODE = FATAL. -/
  | illegalOpcode (op pc : Word) (cycles : Nat)
  /-- Fatal: a fetch past the end of memory. -/
  | fetchOutOfRange (pc : Word) (cycles : Nat)
  /-- Fatal: 2NNN on a full stack, with STACK_LIMIT set. -/
  | stackOverflow (op pc : Word) (cycles : Nat)
  /-- Recoverable: DXYN, FX33, FX55 or FX65 out of range. -/
  | memOutOfRange (addr : Word) (len : Nat)
  /-- Recoverable: 00EE on an empty stack. -/
  | stackUnderflow (pc : Word)
  /-- Recoverable: FX0A's wait returned a value outside 0 to 15. -/
  | invalidWaitKey (value : Int)
  /-- Recoverable: a draw rejected under SCREEN_OOB = REJECT. -/
  | drawRejected (x y : Byte)
  /-- The loader's program is too long (R54, R444); the code is the model's (log 12). -/
  | programTooLong (len : Nat)
  deriving DecidableEq, Repr

/-- One move of an agent: the core, or a host interaction of R63. -/
inductive Move where
  /-- The core takes its next step; forceSync is the step's input (R130, R145). -/
  | core (forceSync : Bool)
  /-- The input collaborator calls setKey (R55, R242). -/
  | setKey (k : Nat) (pressed : Bool)
  /-- The renderer takes a snapshot (R56, R209). -/
  | snapshot (consumeFlag : Bool)
  /-- The host clock advances by this many nanoseconds (R38, R63). -/
  | advanceClock (ns : Nat)
  /-- The loader writes a program at 0x200 (R54, R443). -/
  | load (bytes : List Byte)
  /-- The host cancels the session (R415). -/
  | cancel
  deriving DecidableEq, Repr

/-- The state. The first field is the fixed configuration (R51; log 1), the last four are the model's own (logs 4,
6 and 7); the others are the spec's state, under the spec's names. -/
structure State where
  /-- The parameters of R15; no step writes them. -/
  cfg : Config
  /-- V0..VF (R31). -/
  V : Vector Byte 16
  /-- The index register (R37). -/
  I : Word
  /-- The address of the next instruction to fetch (R34). -/
  PC : Word
  /-- The call stack, top first (R39, R40). -/
  stack : List Word
  /-- The bytes of memory that differ from the reset contents, in canonical form (R53, R70; Memory.wf). -/
  mem : List Host.Cell
  /-- The delay timer's deadline, in nanoseconds (R41). -/
  delayDeadline : Nat
  /-- The sound timer's deadline, in nanoseconds (R41). -/
  soundDeadline : Nat
  /-- The framebuffer (R42). -/
  pixel : Grid
  /-- The modified flag (R43). -/
  modified : Bool
  /-- The key states (R45). -/
  key : Vector Bool 16
  /-- The pending change slot (R46). -/
  pending : Option KeyEvent
  /-- The cycle counter (R48). -/
  cycles : Nat
  /-- The clock reading at construction (R49). -/
  startTime : Nat
  /-- The run state (R50). -/
  run : RunState
  /-- The records emitted so far, newest first (R58). -/
  diagnostics : List Diagnostic
  /-- A time the clock has reached: the last reading, or later after the move advanceClock. -/
  clock : Nat
  /-- How many times the clock was read. -/
  clockReads : Nat
  /-- How many random bytes were drawn. -/
  randomReads : Nat
  /-- The moves that come next; when it is empty the core moves. -/
  schedule : List Move
  deriving DecidableEq, Repr

/-- Construction of a session with a configuration at a clock reading (R61, R440): memory lists nothing, so it holds
the font and zeros. -/
def State.construct (cfg : Config) (now : Nat) : State where
  cfg := cfg
  V := Vector.replicate 16 0#8
  I := 0#16
  PC := programBase
  stack := []
  mem := []
  delayDeadline := now
  soundDeadline := now
  pixel := Vector.replicate 32 (Vector.replicate 64 false)
  modified := false
  key := Vector.replicate 16 false
  pending := none
  cycles := 0
  startTime := now
  run := .running
  diagnostics := []
  clock := now
  clockReads := 0
  randomReads := 0
  schedule := []

/-- The machine right after reset: the reset configuration (logs 2, 3), constructed at a free clock reading
(log 5). -/
def State.reset : State := State.construct standardConfig Config.freeStartTime

end Sys2Proof.Machine
end

