-- ==== Sys2Proof/Machine/Ops.lean ====
section
/-! DEFINITION. The operations every meaning is written over: memory, registers, PC, the call stack, the clock, the
random source, diagnostics, and the two ways an error is handled. -/

namespace Sys2Proof.Machine

/-- What a step or a meaning answers. -/
abbrev Result := Host.Outcome State Fault Refusal

/-! ### Memory (20_memory.md) -/

/-- The listed byte at an address, if one is listed. -/
def Memory.lookup (a : Nat) : List Host.Cell → Option Byte
  | [] => none
  | (k, b) :: rest => if k = a then some b else Memory.lookup a rest

/-- The byte at an address of memory: the listed one, else the reset contents. -/
def Memory.byteAt (cfg : Config) (m : List Host.Cell) (a : Nat) : Byte :=
  (Memory.lookup a m).getD (initialByte cfg a)

/-- Store one byte, keeping the canonical form: a byte equal to the reset contents is not listed. -/
def Memory.put (cfg : Config) (a : Nat) (b : Byte) : List Host.Cell → List Host.Cell
  | [] => if b = initialByte cfg a then [] else [(a, b)]
  | (k, c) :: rest =>
    if a < k then (if b = initialByte cfg a then (k, c) :: rest else (a, b) :: (k, c) :: rest)
    else if a = k then (if b = initialByte cfg a then rest else (a, b) :: rest)
    else (k, c) :: Memory.put cfg a b rest

/-- Store a run of bytes at ascending addresses (R77). -/
def Memory.putRange (cfg : Config) : Nat → List Byte → List Host.Cell → List Host.Cell
  | _, [], m => m
  | a, b :: bs, m => Memory.putRange cfg (a + 1) bs (Memory.put cfg a b m)

/-- The canonical form: addresses strictly rising and inside memory, no entry equal to the reset contents. -/
def Memory.wf (cfg : Config) (m : List Host.Cell) : Bool :=
  decide (m.Pairwise (fun p q => p.1 < q.1)) &&
    m.all (fun c => decide (c.1 < memSize) && decide (c.2 ≠ initialByte cfg c.1))

/-- readByte (R71): the byte at an address, or OutOfRange. -/
def readByte (s : State) (a : Nat) : Option Byte :=
  if a < memSize then some (Memory.byteAt s.cfg s.mem a) else none

/-- MemRead (R72): the n bytes at addr, or OutOfRange (none). -/
def memRead (s : State) (addr n : Nat) : Option (List Byte) :=
  if addr + n ≤ memSize then some ((List.range n).map fun j => Memory.byteAt s.cfg s.mem (addr + j)) else none

/-- MemWrite (R73): all the bytes at addr, or OutOfRange (none) and nothing written. -/
def memWrite (s : State) (addr : Nat) (bytes : List Byte) : Option State :=
  if addr + bytes.length ≤ memSize then some { s with mem := Memory.putRange s.cfg addr bytes s.mem } else none

/-- writeByte (R71). -/
def writeByte (s : State) (addr : Nat) (b : Byte) : Option State := memWrite s addr [b]

/-! ### Registers (R31, R37, R75) -/

/-- V[x]. -/
def State.reg (s : State) (x : RegIdx) : Byte := s.V[x.toNat]'x.isLt

/-- V[x] <- v. -/
def State.setReg (x : RegIdx) (v : Byte) (s : State) : State := { s with V := s.V.set x.toNat v x.isLt }

/-- The index of the flags register VF (R33). -/
def vf : RegIdx := 0xF#4

/-- V0, V1, ..., VX, in order: what FX55 stores (R77). -/
def State.regsUpTo (s : State) (x : RegIdx) : List Byte := s.V.toList.take (x.toNat + 1)

/-- Put bytes into the registers from Vj on, ascending. -/
def putRegs : Nat → List Byte → Vector Byte 16 → Vector Byte 16
  | _, [], V => V
  | j, b :: bs, V => putRegs (j + 1) bs (V.setIfInBounds j b)

/-- V[j] <- bytes[j] for every j that bytes has, other registers unchanged: what FX65 loads (R77). -/
def State.loadRegs (bytes : List Byte) (s : State) : State := { s with V := putRegs 0 bytes s.V }

/-- I <- v. -/
def State.setI (v : Word) (s : State) : State := { s with I := v }

/-! ### PC (R36, R136 to R138) -/

/-- pc <- target. -/
def State.setPC (target : Word) (s : State) : State := { s with PC := target }

/-- A normal step's advance: PC <- u16(PC + 2) (R136). -/
def State.advance (s : State) : State := s.setPC (s.PC + 2#16)

/-- A conditional skip: PC + 4 when the condition holds, PC + 2 when it does not (R137). -/
def State.skipIf (cond : Bool) (s : State) : State :=
  if cond then s.setPC (s.PC + 4#16) else s.setPC (s.PC + 2#16)

/-! ### The call stack (R39, R40) -/

/-- stack <- entries, top first. -/
def State.setStack (entries : List Word) (s : State) : State := { s with stack := entries }

/-- Whether a push would pass STACK_LIMIT (R334). -/
def State.stackFull (s : State) : Bool :=
  match s.cfg.stackLimit with
  | none => false
  | some n => decide (s.stack.length = n)

/-! ### Time and chance (R38, R60, R173) -/

/-- now(): the reading the next clock read returns, the last one plus a free amount (log 4). -/
def State.now (s : State) : Nat := s.clock + Config.freeElapsed s.clockReads

/-- The state after a clock read. -/
def State.clockRead (s : State) : State := { s with clock := s.now, clockReads := s.clockReads + 1 }

/-- rand8(): the byte the next draw returns, free (log 6). -/
def State.rand8 (s : State) : Byte := Config.freeRandom s.randomReads

/-- The state after a draw. -/
def State.randomRead (s : State) : State := { s with randomReads := s.randomReads + 1 }

/-! ### Errors (60_exceptions.md R400 to R407) -/

/-- log Diag(kind, info): emit a record and go on (R403). -/
def State.logDiag (d : Diagnostic) (s : State) : State := { s with diagnostics := d :: s.diagnostics }

/-- run <- r. -/
def State.setRun (r : RunState) (s : State) : State := { s with run := r }

/-- raise Fatal(info), the one way the core takes an error it does not recover from: the record is emitted, the run
state becomes HALTED(EXIT_STATUS), nothing else changes and PC still holds the instruction's address (R402). There
is no vector, no saved state and no return (R400, R406, R407). -/
def State.raiseFatal (d : Diagnostic) (s : State) : State := (s.logDiag d).setRun (.halted s.cfg.exitStatus)

/-! ### The cycle counter (R140) -/

/-- cycles <- cycles + 1. -/
def State.countCycle (s : State) : State := { s with cycles := s.cycles + 1 }

end Sys2Proof.Machine
end

