-- ==== Sys2Proof/Machine/Flags.lean ====
section
/-! DEFINITION. VF as the flags register (10_state.md R33): every flag computation of the spec, and the helper that
writes a result and its flag (41_alu.md R160, R175). -/

namespace Sys2Proof.Machine

/-- A flag bit as the byte VF takes: 1 or 0. -/
def flagByte (f : Bool) : Byte := if f then 1#8 else 0#8

/-- The carry of 8XY4: bit 8 of the 9-bit sum (R167). -/
def carryOut (a b : Byte) : Bool := (a.setWidth 9 + b.setWidth 9).getLsbD 8

/-- "No borrow" of a - b: minuend ≥ subtrahend (R168, R171). -/
def noBorrow (a b : Byte) : Bool := decide (b.toNat ≤ a.toNat)

/-- The bit a right shift by one shifts out (R169). -/
def shiftedOutRight (v : Byte) : Bool := v.getLsbD 0

/-- The bit a left shift by one shifts out (R170). -/
def shiftedOutLeft (v : Byte) : Bool := v.getLsbD 7

/-- setWithFlag (R160): write V[x] and VF in the order VF_ORDER gives. -/
def State.setWithFlag (x : RegIdx) (r : Byte) (f : Bool) (s : State) : State :=
  match s.cfg.vfOrder with
  | .flagLast => (s.setReg x r).setReg vf (flagByte f)
  | .flagFirst => (s.setReg vf (flagByte f)).setReg x r

/-- VF <- (c ? 1 : 0), the collision flag of DXYN (R212). -/
def State.setCollision (c : Bool) (s : State) : State := s.setReg vf (flagByte c)

end Sys2Proof.Machine
end

