-- ==== Sys2Proof/Machine/Operands.lean ====
section
/-! DEFINITION. The operand forms: immediates and their extension (30_encoding.md R103), the shift source under
ALT_SHIFT (00_scope.md R16), memory at I and the advance of I under ALT_INDEX, the font address, and the decimal
digits (45_index_memory.md). -/

namespace Sys2Proof.Machine

/-- zext_16 of a 12-bit address (R103). -/
def zext12 (nnn : Addr12) : Word := nnn.setWidth 16

/-- zext_16 of a byte (R103). -/
def zext8 (b : Byte) : Word := b.setWidth 16

/-- The source of 8XY6 and 8XYE: VX under ALT_SHIFT, else VY (R169, R170). -/
def State.shiftSource (s : State) (x y : RegIdx) : Byte := if s.cfg.altShift then s.reg x else s.reg y

/-- The number of registers FX55 and FX65 move, X + 1 (R79). -/
def blockLen (x : RegIdx) : Nat := x.toNat + 1

/-- I after a completed FX55 or FX65: I + X + 1, or unchanged under ALT_INDEX (R305, R306). -/
def State.advanceIndex (x : RegIdx) (s : State) : State :=
  if s.cfg.altIndex then s else s.setI (s.I + BitVec.ofNat 16 (blockLen x))

/-- The address of a digit's glyph, from the low nibble of the register (R303). -/
def State.glyphAddress (s : State) (x : RegIdx) : Word :=
  s.cfg.fontBase + BitVec.ofNat 16 (5 * (s.reg x &&& 0x0F#8).toNat)

/-- The three decimal digits of a byte, hundreds first (R304). -/
def decimalDigits (v : Byte) : List Byte :=
  [BitVec.ofNat 8 (v.toNat / 100), BitVec.ofNat 8 (v.toNat / 10 % 10), BitVec.ofNat 8 (v.toNat % 10)]

end Sys2Proof.Machine
end

