-- ==== Sys2Proof/Machine/Alu.lean ====
section
/-! DEFINITION. The ALU instructions (41_alu.md). Each is a normal step (R160); operands are read before any register
is written (R20). -/

namespace Sys2Proof.Machine

/-- 6XNN: V[X] <- NN (R161). -/
def execLdImm (x : RegIdx) (nn : Byte) (s : State) : Result := .next (s.setReg x nn).advance

/-- 7XNN: V[X] <- u8(V[X] + NN), no flag (R162). -/
def execAddImm (x : RegIdx) (nn : Byte) (s : State) : Result := .next (s.setReg x (s.reg x + nn)).advance

/-- 8XY0: V[X] <- V[Y] (R163). -/
def execLdReg (x y : RegIdx) (s : State) : Result := .next (s.setReg x (s.reg y)).advance

/-- 8XY1: V[X] <- V[X] | V[Y] (R164). -/
def execOrReg (x y : RegIdx) (s : State) : Result := .next (s.setReg x (s.reg x ||| s.reg y)).advance

/-- 8XY2: V[X] <- V[X] & V[Y] (R165). -/
def execAndReg (x y : RegIdx) (s : State) : Result := .next (s.setReg x (s.reg x &&& s.reg y)).advance

/-- 8XY3: V[X] <- V[X] ^ V[Y] (R166). -/
def execXorReg (x y : RegIdx) (s : State) : Result := .next (s.setReg x (s.reg x ^^^ s.reg y)).advance

/-- 8XY4: the sum and its carry (R167). -/
def execAddReg (x y : RegIdx) (s : State) : Result :=
  .next (s.setWithFlag x (s.reg x + s.reg y) (carryOut (s.reg x) (s.reg y))).advance

/-- 8XY5: VX - VY and no-borrow (R168). -/
def execSubReg (x y : RegIdx) (s : State) : Result :=
  .next (s.setWithFlag x (s.reg x - s.reg y) (noBorrow (s.reg x) (s.reg y))).advance

/-- 8XY6: the shift source right by one, and the bit shifted out (R169). -/
def execShr (x y : RegIdx) (s : State) : Result :=
  .next (s.setWithFlag x (s.shiftSource x y >>> 1) (shiftedOutRight (s.shiftSource x y))).advance

/-- 8XY7: VY - VX and no-borrow (R171). -/
def execSubn (x y : RegIdx) (s : State) : Result :=
  .next (s.setWithFlag x (s.reg y - s.reg x) (noBorrow (s.reg y) (s.reg x))).advance

/-- 8XYE: the shift source left by one, and the bit shifted out (R170). -/
def execShl (x y : RegIdx) (s : State) : Result :=
  .next (s.setWithFlag x (s.shiftSource x y <<< 1) (shiftedOutLeft (s.shiftSource x y))).advance

/-- CXNN: V[X] <- rand8() & NN (R172). -/
def execRnd (x : RegIdx) (nn : Byte) (s : State) : Result :=
  .next (s.randomRead.setReg x (s.rand8 &&& nn)).advance

end Sys2Proof.Machine
end

