-- ==== Sys2Proof/Machine/Control.lean ====
section
/-! DEFINITION. The control transfer instructions (46_control.md). The fatal ones record their own opcode, which is
what the encoder gives for them. -/

namespace Sys2Proof.Machine

/-- 0NNN: a no-op, or fatal, by SYS_MODE (R331). -/
def execSys (nnn : Addr12) (s : State) : Result :=
  match s.cfg.sysMode with
  | .nop => .next s.advance
  | .fatal => .next (s.raiseFatal (.illegalOpcode (encode (.sys nnn)) s.PC s.cycles))

/-- 00EE: pop the address of the 2NNN and go past it; on an empty stack emit a record and leave PC (R332). -/
def execRet (s : State) : Result :=
  match s.stack with
  | [] => .next (s.logDiag (.stackUnderflow s.PC))
  | a :: rest => .next ((s.setStack rest).setPC (a + 2#16))

/-- 1NNN: PC <- zext_16(NNN) (R333). -/
def execJp (nnn : Addr12) (s : State) : Result := .next (s.setPC (zext12 nnn))

/-- 2NNN: push the address of this instruction and jump; fatal when STACK_LIMIT is reached (R334). -/
def execCall (nnn : Addr12) (s : State) : Result :=
  if s.stackFull then .next (s.raiseFatal (.stackOverflow (encode (.call nnn)) s.PC s.cycles))
  else .next ((s.setStack (s.PC :: s.stack)).setPC (zext12 nnn))

/-- BNNN: PC <- u16(zext_16(NNN) + V[0]) (R335). -/
def execJpV0 (nnn : Addr12) (s : State) : Result := .next (s.setPC (zext12 nnn + zext8 (s.reg 0#4)))

/-- 3XNN: skip if VX = NN (R336). -/
def execSeImm (x : RegIdx) (nn : Byte) (s : State) : Result := .next (s.skipIf (decide (s.reg x = nn)))

/-- 4XNN: skip if VX ≠ NN (R337). -/
def execSneImm (x : RegIdx) (nn : Byte) (s : State) : Result := .next (s.skipIf (decide (s.reg x ≠ nn)))

/-- 5XY0: skip if VX = VY (R338). -/
def execSeReg (x y : RegIdx) (s : State) : Result := .next (s.skipIf (decide (s.reg x = s.reg y)))

/-- 9XY0: skip if VX ≠ VY (R339). -/
def execSneReg (x y : RegIdx) (s : State) : Result := .next (s.skipIf (decide (s.reg x ≠ s.reg y)))

end Sys2Proof.Machine
end

