-- ==== Sys2Proof/Machine/Display.lean ====
section
/-! DEFINITION. The screen unit, its port to the renderer, and the two instructions that use it (42_display.md). -/

namespace Sys2Proof.Machine

/-! ### The grid -/

/-- pixel[y][x] (R42). -/
def Grid.at (g : Grid) (p : Fin 64 × Fin 32) : Bool := g[p.2][p.1]

/-- pixel[y][x] <- not pixel[y][x]. -/
def Grid.flip (g : Grid) (p : Fin 64 × Fin 32) : Grid := g.set p.2 (g[p.2].set p.1 (!g.at p))

/-- The grid with every pixel off. -/
def Grid.blank : Grid := Vector.replicate 32 (Vector.replicate 64 false)

/-! ### The raster engine (R202 to R206) -/

/-- A column or row inside the grid stands; one past the edge wraps under SCREEN_WRAP, else is clipped (R204, R205). -/
def resolveEdge (n : Nat) [NeZero n] (wrap : Bool) (p : Nat) : Option (Fin n) :=
  if h : p < n then some ⟨p, h⟩ else if wrap then some (Fin.ofNat n p) else none

/-- The pixels one sprite byte flips, at row py from column x, left to right: bit 7 is leftmost (R206). -/
def rowTargets (wrap : Bool) (x : Nat) (py : Fin 32) (row : Byte) : List (Fin 64 × Fin 32) :=
  (List.range 8).filterMap fun c =>
    if row.getLsbD (7 - c) then (resolveEdge 64 wrap (x + c)).map (·, py) else none

/-- The pixels a sprite flips, row by row from row y, in the order R202 visits them. -/
def spriteTargets (wrap : Bool) (x : Nat) : Nat → List Byte → List (Fin 64 × Fin 32)
  | _, [] => []
  | y, row :: rows =>
    (match resolveEdge 32 wrap y with
      | some py => rowTargets wrap x py row
      | none => []) ++ spriteTargets wrap x (y + 1) rows

/-- Flip the pixels in order, recording whether one that was on was turned off (R202, R207). -/
def flipAll : List (Fin 64 × Fin 32) → Grid × Bool → Grid × Bool
  | [], acc => acc
  | p :: ps, (g, collision) => flipAll ps (g.flip p, collision || g.at p)

/-- clear() (R201). -/
def State.clearScreen (s : State) : State := { s with pixel := Grid.blank, modified := true }

/-- Whether the start coordinates lie outside the grid (R203). -/
def startOutside (x y : Byte) : Bool := decide (64 ≤ x.toNat) || decide (32 ≤ y.toNat)

/-- The grid after an accepted draw, and its collision. Start coordinates are reduced modulo 64 and 32, which leaves
those inside the grid as they are (R202, R203). -/
def drawOn (wrap : Bool) (rows : List Byte) (x y : Byte) (g : Grid) : Grid × Bool :=
  flipAll (spriteTargets wrap (x.toNat % 64) (y.toNat % 32) rows) (g, false)

/-- drawSprite (R202, R203, R208): the state after it, and whether a pixel that was on was turned off. -/
def State.drawSprite (rows : List Byte) (x y : Byte) (s : State) : State × Bool :=
  if startOutside x y && decide (s.cfg.screenOob = .reject) then (s.logDiag (.drawRejected x y), false)
  else
    let drawn := drawOn s.cfg.screenWrap rows x y s.pixel
    ({ s with pixel := drawn.1, modified := true }, drawn.2)

/-- snapshot(consumeFlag): the copy of the grid, and the state after it (R209). -/
def State.snapshot (consumeFlag : Bool) (s : State) : Grid × State :=
  (s.pixel, if consumeFlag then { s with modified := false } else s)

/-! ### Instructions -/

/-- 00E0: clear() (R211). -/
def execCls (s : State) : Result := .next s.clearScreen.advance

/-- DXYN: read N rows at I, draw them at (VX, VY), VF <- collision; nothing but PC and a record when the read is out
of range (R212 to R214). -/
def execDrw (x y : RegIdx) (n : Nibble) (s : State) : Result :=
  match memRead s s.I.toNat n.toNat with
  | none => .next (s.logDiag (.memOutOfRange s.I n.toNat)).advance
  | some rows =>
    let drawn := s.drawSprite rows (s.reg x) (s.reg y)
    .next (drawn.1.setCollision drawn.2).advance

end Sys2Proof.Machine
end

