-- ==== Sys2Proof/Machine/Index.lean ====
section
/-! DEFINITION. The index register and memory instructions (45_index_memory.md). An access out of range emits a
record and changes nothing else but PC (R300). -/

namespace Sys2Proof.Machine

/-- ANNN: I <- zext_16(NNN) (R301). -/
def execLdI (nnn : Addr12) (s : State) : Result := .next (s.setI (zext12 nnn)).advance

/-- FX1E: I <- u16(I + V[X]), no flag (R302). -/
def execAddI (x : RegIdx) (s : State) : Result := .next (s.setI (s.I + zext8 (s.reg x))).advance

/-- FX29: I <- the glyph of VX's low nibble (R303). -/
def execLdF (x : RegIdx) (s : State) : Result := .next (s.setI (s.glyphAddress x)).advance

/-- FX33: the three decimal digits of VX at I (R304). -/
def execLdB (x : RegIdx) (s : State) : Result :=
  match memWrite s s.I.toNat (decimalDigits (s.reg x)) with
  | none => .next (s.logDiag (.memOutOfRange s.I 3)).advance
  | some t => .next t.advance

/-- FX55: V0..VX at I, then I advances unless ALT_INDEX (R305). -/
def execLdMemVx (x : RegIdx) (s : State) : Result :=
  match memWrite s s.I.toNat (s.regsUpTo x) with
  | none => .next (s.logDiag (.memOutOfRange s.I (blockLen x))).advance
  | some t => .next (t.advanceIndex x).advance

/-- FX65: V0..VX from memory at I, then I advances unless ALT_INDEX (R306). -/
def execLdVxMem (x : RegIdx) (s : State) : Result :=
  match memRead s s.I.toNat (blockLen x) with
  | none => .next (s.logDiag (.memOutOfRange s.I (blockLen x))).advance
  | some bytes => .next ((s.loadRegs bytes).advanceIndex x).advance

end Sys2Proof.Machine
end

