-- ==== Sys2Proof/Machine/Keypad.lean ====
section
/-! DEFINITION. The keypad unit, its input port, FX0A's wait, and the key instructions (43_keyboard.md). -/

namespace Sys2Proof.Machine

/-- isPressed(k): false outside 0 to 15 (R241). -/
def State.isPressed (s : State) (k : Nat) : Bool := if h : k < 16 then s.key[k] else false

/-- setKey(k, pressed): a change is recorded in key[] and in the pending slot; a repeat and a key outside 0 to 15 do
nothing (R242, R243). -/
def State.setKey (k : Nat) (pressed : Bool) (s : State) : State :=
  if h : k < 16 then
    if s.key[k] = pressed then s
    else { s with key := s.key.set k pressed, pending := some ⟨⟨k, h⟩, pressed⟩ }
  else s

/-- pending <- empty. -/
def State.clearPending (s : State) : State := { s with pending := none }

/-! ### FX0A's wait (R244, R249, R250) -/

/-- The wait's deadline, WAIT_TIMEOUT milliseconds after now, and the state after the clock read it needs. -/
def State.waitDeadline (s : State) : Option Nat × State :=
  match s.cfg.waitTimeout with
  | none => (none, s)
  | some ms => (some (s.now + 1000000 * ms), s.clockRead)

/-- The end of the wait: V[X] <- k, PC + 2, RUNNING, and the instruction counts (R249, R140). A timeout (none, the
sentinel -1) is an invalid result: key 0 and a record (R250). -/
def State.finishWait (x : RegIdx) (result : Option (Fin 16)) (s : State) : State :=
  match result with
  | some k => (((s.setReg x (BitVec.ofNat 8 k.val)).advance).setRun .running).countCycle
  | none => ((((s.logDiag (.invalidWaitKey (-1))).setReg x 0#8).advance).setRun .running).countCycle

/-- One check of the pending slot by the waiter (R244, R249 phase 2). An event ends the wait, unless it is a press
and only releases count; with no event the wait ends when its deadline has passed, and otherwise holds (R251). -/
def State.resumeWait (x : RegIdx) (tEnd : Option Nat) (s : State) : State :=
  match s.pending with
  | some e =>
    if s.cfg.waitReleaseOnly && e.pressed then s.clearPending else s.clearPending.finishWait x (some e.key)
  | none =>
    match tEnd with
    | none => s
    | some t => if t ≤ s.now then s.clockRead.finishWait x none else s.clockRead

/-! ### Instructions -/

/-- EX9E: skip if key VX is pressed (R247). -/
def execSkp (x : RegIdx) (s : State) : Result := .next (s.skipIf (s.isPressed (s.reg x).toNat))

/-- EXA1: skip if key VX is not pressed (R248). -/
def execSknp (x : RegIdx) (s : State) : Result := .next (s.skipIf (!s.isPressed (s.reg x).toNat))

/-- FX0A, phase 1: clear the slot, fix the deadline, and wait; PC and cycles stay (R249). -/
def execLdVxK (x : RegIdx) (s : State) : Result :=
  let waiting := s.clearPending.waitDeadline
  .next (waiting.2.setRun (.waitingKey x waiting.1))

end Sys2Proof.Machine
end

