-- ==== Sys2Proof/Machine/Timers.lean ====
section
/-! DEFINITION. The timer units, the sound output, and the timer instructions (44_timers.md). -/

namespace Sys2Proof.Machine

/-- roundHalfUp of the rational num / den: floor(num / den + 1/2), for den > 0 (R272). -/
def roundHalfUp (num den : Int) : Int := (2 * num + den) / (2 * den)

/-- A timer's value at clock time t, from its deadline d (R271). -/
def timerValue (d t : Nat) : Byte :=
  BitVec.ofNat 8 (min 255 (max 0 (roundHalfUp (((d : Int) - (t : Int)) * 60) 1000000000))).toNat

/-- The deadline n sixtieths of a second after now, to whole nanoseconds (R273). -/
def deadlineAfter (now : Nat) (n : Byte) : Nat := now + 1000000000 * n.toNat / 60

/-- delay_deadline <- d. -/
def State.setDelayDeadline (d : Nat) (s : State) : State := { s with delayDeadline := d }

/-- sound_deadline <- d. -/
def State.setSoundDeadline (d : Nat) (s : State) : State := { s with soundDeadline := d }

/-- getDelay() at clock time t (R271). -/
def State.delayAt (s : State) (t : Nat) : Byte := timerValue s.delayDeadline t

/-- getSound() at clock time t (R271); no instruction calls it. -/
def State.soundAt (s : State) (t : Nat) : Byte := timerValue s.soundDeadline t

/-- sound_active at clock time t (R57, R279). -/
def State.soundActive (s : State) (t : Nat) : Bool := decide (t < s.soundDeadline)

/-- FX07: V[X] <- getDelay() (R277). -/
def execLdVxDt (x : RegIdx) (s : State) : Result := .next (s.clockRead.setReg x (s.delayAt s.now)).advance

/-- FX15: setDelay(V[X]) (R278). -/
def execLdDtVx (x : RegIdx) (s : State) : Result :=
  .next (s.clockRead.setDelayDeadline (deadlineAfter s.now (s.reg x))).advance

/-- FX18: setSound(V[X]) (R280). -/
def execLdStVx (x : RegIdx) (s : State) : Result :=
  .next (s.clockRead.setSoundDeadline (deadlineAfter s.now (s.reg x))).advance

end Sys2Proof.Machine
end

