-- ==== Sys2Proof/Machine/Sequencer.lean ====
section
/-! DEFINITION. The core's sequencer (40_execution.md): fetch, throttle, decode, execute, count; the wait; and the
moves of the agents outside the block (10_state.md R63). Step.lean puts them in order. -/

namespace Sys2Proof.Machine

/-! ### Fetch (R131, R132) -/

/-- fetch(): the word at PC, high byte first, or OutOfRange (none). It does not change PC. -/
def State.fetch (s : State) : Option Word :=
  match memRead s s.PC.toNat 2 with
  | some [hi, lo] => some (composeWord hi lo)
  | _ => none

/-! ### The throttle (R142 to R145) -/

/-- THROTTLED (R142). -/
def isThrottled : Instr → Bool
  | .cls | .drw _ _ _ | .skp _ | .sknp _ | .ldVxDt _ | .ldVxK _ | .ldDtVx _ | .ldStVx _ => true
  | .ret | .sys _ | .jp _ | .call _ | .seImm _ _ | .sneImm _ _ | .seReg _ _ | .ldImm _ _ | .addImm _ _
  | .ldReg _ _ | .orReg _ _ | .andReg _ _ | .xorReg _ _ | .addReg _ _ | .subReg _ _ | .shr _ _ | .subn _ _
  | .shl _ _ | .sneReg _ _ | .ldI _ | .jpV0 _ | .rnd _ _ | .addI _ | .ldF _ | .ldB _ | .ldMemVx _
  | .ldVxMem _ => false

/-- Whether the throttle runs before this word (R143): not when FREQUENCY is 0, always with forceSync, else only
before a word of THROTTLED. -/
def State.throttleRuns (s : State) (op : Word) (forceSync : Bool) : Bool :=
  decide (s.cfg.frequency ≠ 0) &&
    (forceSync || (match decodeWord op with
      | .ok i => isThrottled i
      | .error _ => false))

/-- expected_ns - actual_ns times FREQUENCY, a whole number: 10^9 × cycles - (t - start_time) × FREQUENCY (R143). -/
def State.aheadScaled (s : State) (t : Nat) : Int :=
  1000000000 * (s.cycles : Int) - ((t : Int) - (s.startTime : Int)) * (s.cfg.frequency : Int)

/-- The clock reading when the throttle that read t is done. Less than 1 ms ahead it does not sleep; otherwise at
least the difference passes, rounded up to whole nanoseconds, and a free amount more (R143, R144; log 14). -/
def State.throttleDone (s : State) (t : Nat) : Nat :=
  if s.aheadScaled t < 1000000 * (s.cfg.frequency : Int) then t
  else t + ((s.aheadScaled t + (s.cfg.frequency : Int) - 1) / (s.cfg.frequency : Int)).toNat +
    Config.freeElapsed (s.clockReads + 1)

/-- throttle(op, forceSync): it changes nothing but how much clock time has passed (R145). -/
def State.throttle (op : Word) (forceSync : Bool) (s : State) : State :=
  { s with
    clock := if s.throttleRuns op forceSync then s.throttleDone s.now else s.clock
    clockReads := if s.throttleRuns op forceSync then s.clockReads + 2 else s.clockReads }

/-! ### The core's step (R130) -/

/-- The last line of the step: an instruction that leaves the core RUNNING has completed and counts (R130, R140). -/
def countCompleted : Result → Result
  | .next t =>
    match t.run with
    | .running => .next t.countCycle
    | .waitingKey _ _ | .halted _ => .next t
  | .fault f => .fault f
  | .refused r => .refused r

/-- Decode a fetched word and execute it; an illegal word is fatal (R133 to R135). -/
def State.runWord (op : Word) (s : State) : Result :=
  match decodeWord op with
  | .error _ => .next (s.raiseFatal (.illegalOpcode op s.PC s.cycles))
  | .ok i => countCompleted (exec i s)

/-- The core's move, by its run state. A wait makes one check of the slot (R147, R249); a halted core takes no step
(R148). -/
def State.coreStep (forceSync : Bool) (s : State) : Result :=
  match s.run with
  | .halted status => .fault (.halted status)
  | .waitingKey x tEnd => .next (s.resumeWait x tEnd)
  | .running =>
    match s.fetch with
    | none => .next (s.raiseFatal (.fetchOutOfRange s.PC s.cycles))
    | some op => (s.throttle op forceSync).runWord op

/-! ### The moves of the outside agents (R54 to R56, R63) -/

/-- The program load port: all of the bytes at 0x200, or none of them and a record (R54, R73, R443). -/
def State.loadProgram (bytes : List Byte) (s : State) : State :=
  match memWrite s programBase.toNat bytes with
  | none => s.logDiag (.programTooLong bytes.length)
  | some t => t

/-- Whether the CPU has not stepped yet: only then may the loader write (R63). Every core step from a RUNNING state
counts, waits or halts (log 16). Any number of loads may come before it, also after one that was too long: R443 speaks of
boot as one step and R63 excludes only a load once the CPU has stepped (log 27, DESIGN CHOICE). -/
def State.beforeFirstStep (s : State) : Bool := decide (s.cycles = 0) && decide (s.run = .running)

/-- The host clock moves on (R38). -/
def State.advanceClock (ns : Nat) (s : State) : State := { s with clock := s.clock + ns }

/-- One move of an agent. -/
def State.move (m : Move) (s : State) : Result :=
  match m with
  | .core forceSync => s.coreStep forceSync
  | .setKey k pressed => .next (s.setKey k pressed)
  | .snapshot consumeFlag => .next (s.snapshot consumeFlag).2
  | .advanceClock ns => .next (s.advanceClock ns)
  | .load bytes => if s.beforeFirstStep then .next (s.loadProgram bytes) else .refused .loadAfterStart
  | .cancel => .refused .cancelled

/-- schedule <- moves. -/
def State.setSchedule (moves : List Move) (s : State) : State := { s with schedule := moves }

/-! ### Placing a word for the next step -/

/-- The state whose next step fetches and runs this word: the core RUNNING, no other move first, and the word at PC,
or at 0x200 when PC is past the last word of memory. -/
def State.placeWord (op : Word) (s : State) : State :=
  let pc : Word := if s.PC.toNat + 2 ≤ memSize then s.PC else programBase
  { s with
    PC := pc
    mem := Memory.putRange s.cfg pc.toNat (wordBytes op) s.mem
    run := .running
    schedule := [] }

end Sys2Proof.Machine
end

