-- ==== Sys2Proof/Machine/Step.lean ====
section
/-! DEFINITION. One step of the machine: a halted machine has stopped (R148); otherwise the agent that heads the
schedule moves, and the core when no move is listed (log 7). -/

namespace Sys2Proof.Machine

/-- One step. -/
def step (s : State) : Host.Outcome State Fault Refusal :=
  match s.run with
  | .halted status => .fault (.halted status)
  | .running | .waitingKey _ _ =>
    match s.schedule with
    | [] => s.coreStep false
    | m :: rest => (s.setSchedule rest).move m

/-- s with an instruction (its bits numbered as the opcode table numbers them) stored where step fetches next. -/
def State.withFetchWord (s : State) (nbits w : Nat) : State :=
  s.placeWord (BitVec.ofNat 16 (w % 2 ^ nbits))

end Sys2Proof.Machine
end

