-- ==== Sys2Proof/Safety.lean ====
section
/-! DEFINITION. The terms claims are stated in: what a state of a session satisfies (Inv), what a step may leave
unchanged (the frames), the spec's end of a program, infinite runs and the fairness the spec assumes of them, and the
readings of the rules that claims share. -/

namespace Sys2Proof.Machine

/-! ### The invariant of a session -/

/-- What every state of a session satisfies. -/
structure State.Inv (s : State) : Prop where
  /-- The parameters are in their ranges (R15). -/
  config : s.cfg.wf = true
  /-- Memory is in canonical form (log 9). -/
  memory : Memory.wf s.cfg s.mem = true
  /-- No PC above 0x10FE is produced (R36). -/
  pc : s.PC.toNat ≤ 0x10FE
  /-- Every stack entry is the address of a 2NNN, so it could be fetched (R40). -/
  entries : ∀ a ∈ s.stack, a.toNat + 2 ≤ memSize
  /-- The stack respects STACK_LIMIT (R39). -/
  depth : ∀ n, s.cfg.stackLimit = some n → s.stack.length ≤ n
  /-- A halted core holds EXIT_STATUS (R402). -/
  exitStatus : ∀ status, s.run = .halted status → status = s.cfg.exitStatus
  /-- The clock does not run behind the session's start (R38, R49). -/
  started : s.startTime ≤ s.clock
  /-- No timer runs longer than 255 sixtieths of a second (R12, R273). -/
  delay : s.delayDeadline ≤ s.clock + 4250000000
  /-- No timer runs longer than 255 sixtieths of a second (R12, R273). -/
  sound : s.soundDeadline ≤ s.clock + 4250000000
  /-- While FX0A waits, PC holds its address (R139). -/
  waiting : ∀ x tEnd, s.run = .waitingKey x tEnd → s.fetch = some (encode (.ldVxK x))

/-! ### Frames -/

/-- Every address of memory reads in t as it did in s. -/
def SameMemory (s t : State) : Prop := ∀ a, readByte t a = readByte s a

/-- Every address outside the n bytes at addr reads in t as it did in s. -/
def SameMemoryOutside (addr n : Nat) (s t : State) : Prop :=
  ∀ a, (a < addr ∨ addr + n ≤ a) → readByte t a = readByte s a

/-- Every register but those listed holds in t what it held in s. -/
def SameRegsBut (written : List RegIdx) (s t : State) : Prop := ∀ r, r ∉ written → t.reg r = s.reg r

/-- t is s but for PC. -/
def OnlyPC (s t : State) : Prop := t = { s with PC := t.PC } ∧ SameMemory s t

/-- t is s but for the general registers and PC. -/
def OnlyRegsPC (s t : State) : Prop := t = { s with V := t.V, PC := t.PC } ∧ SameMemory s t

/-- t is s but for PC and one more record, d, on the diagnostic port. -/
def OnlyPCAndRecord (d : Diagnostic) (s t : State) : Prop :=
  t = { s with PC := t.PC, diagnostics := d :: s.diagnostics } ∧ SameMemory s t

/-! ### Readings of the rules -/

/-- A normal step: PC advances by 2 once, modulo 65536 (R136). -/
def NormalStep (s t : State) : Prop := t.PC.toNat = (s.PC.toNat + 2) % 65536

/-- A conditional skip: PC advances by 4 when the condition holds, by 2 when it does not (R137). -/
def SkipsWhen (cond : Prop) (s t : State) : Prop :=
  (cond → t.PC.toNat = (s.PC.toNat + 4) % 65536) ∧ (¬cond → t.PC.toNat = (s.PC.toNat + 2) % 65536)

/-- A fatal error: the record, HALTED(EXIT_STATUS), and nothing else changed (R402). -/
def FatalWith (d : Diagnostic) (s t : State) : Prop :=
  t = { s with run := .halted s.cfg.exitStatus, diagnostics := d :: s.diagnostics } ∧ SameMemory s t

/-- The result r and the flag f of a flag-writing instruction with destination x: VX takes the result and VF the
flag, and when X = F the parameter VF_ORDER says which VF keeps; no other register changes (R160, R175). -/
def WritesResultAndFlag (x : RegIdx) (r : Nat) (f : Bool) (s t : State) : Prop :=
  (x ≠ vf → (t.reg x).toNat = r ∧ (t.reg vf).toNat = f.toNat) ∧
  (x = vf → s.cfg.vfOrder = .flagLast → (t.reg vf).toNat = f.toNat) ∧
  (x = vf → s.cfg.vfOrder = .flagFirst → (t.reg vf).toNat = r) ∧
  SameRegsBut [x, vf] s t

/-- key[k] is pressed; no key outside 0 to 15 is (R241). -/
def KeyDown (s : State) (k : Nat) : Prop := ∃ h : k < 16, s.key[k] = true

/-- A position p meets the coordinate q of an n-wide axis: it is q, or it wraps to q (R204, R205). -/
def MeetsEdge (n : Nat) (wrap : Bool) (p q : Nat) : Prop := p = q ∨ (wrap = true ∧ p % n = q)

/-- A sprite drawn at start column x and row y covers the pixel p with a 1 bit: bit 7 - c of row r stands at column
x + c and row y + r (R202, R204 to R206). -/
def Covers (wrap : Bool) (rows : List Byte) (x y : Nat) (p : Fin 64 × Fin 32) : Prop :=
  ∃ r c row, c < 8 ∧ rows[r]? = some row ∧ row.getLsbD (7 - c) = true ∧
    MeetsEdge 64 wrap (x + c) p.1.val ∧ MeetsEdge 32 wrap (y + r) p.2.val

/-- The core moves next from s, with the input forceSync, and s' is the state it moves from: no move is listed, or the
first listed one is the core's and is taken off the list (R130; log 7). -/
def CoreMovesNext (forceSync : Bool) (s s' : State) : Prop :=
  (s.schedule = [] ∧ forceSync = false ∧ s' = s) ∨
  ∃ rest, s.schedule = .core forceSync :: rest ∧ s' = { s with schedule := rest }

/-- The registers the rules let an instruction write: its destination, VF for the instructions that write it as a
flag (R33), and V0..VX for FX65. FX0A writes none at execute: its key arrives when the wait ends (R249). -/
def regsWritten : Instr → List RegIdx
  | .ldImm x _ | .addImm x _ | .ldReg x _ | .orReg x _ | .andReg x _ | .xorReg x _ | .rnd x _ | .ldVxDt x => [x]
  | .addReg x _ | .subReg x _ | .shr x _ | .subn x _ | .shl x _ => [x, vf]
  | .drw _ _ _ => [vf]
  | .ldVxMem x => (List.range (x.toNat + 1)).map (BitVec.ofNat 4)
  | .cls | .ret | .sys _ | .jp _ | .call _ | .seImm _ _ | .sneImm _ _ | .seReg _ _ | .sneReg _ _ | .ldI _
  | .jpV0 _ | .skp _ | .sknp _ | .ldVxK _ | .ldDtVx _ | .ldStVx _ | .addI _ | .ldF _ | .ldB _ | .ldMemVx _ => []

/-! ### Infinite runs and fairness -/

/-- An infinite run of a session: the agents make these moves in turn, and each is a step that gives the next state
(R63, R130; log 25). No state of it is HALTED (R148). -/
def InfiniteRun (moves : Nat → Move) (r : Nat → State) : Prop :=
  ∀ n, step ((r n).setSchedule [moves n]) = .next (r (n + 1))

/-- The clock advances without bound along r: it reaches every time T (R449). -/
def ClockUnbounded (r : Nat → State) : Prop := ∀ T, ∃ n, T ≤ (r n).clock

/-- A move of the core comes at the n-th move or later. -/
def CoreMovesFrom (moves : Nat → Move) (n : Nat) : Prop := ∃ k forceSync, n ≤ k ∧ moves k = .core forceSync

/-- The driver runs the step loop while RUNNING: a RUNNING core makes a move (R63, the driver's must; R130). -/
def DriverRunsLoop (moves : Nat → Move) (r : Nat → State) : Prop :=
  ∀ n, (r n).run = .running → CoreMovesFrom moves n

/-- The waiter blocks only on its condition: a waiting core checks it (R244, R249; log 26, DEDUCED). -/
def WaiterChecks (moves : Nat → Move) (r : Nat → State) : Prop :=
  ∀ n x tEnd, (r n).run = .waitingKey x tEnd → CoreMovesFrom moves n

/-- The fairness the model states: an infinite run in which the agents do what they must. The clock advances without
bound (R449, R63 [decision D33]), the driver runs the step loop while RUNNING (R63), and a waiting core checks its
condition (log 26). The form of a run is log 25's. It is an assumption on the host and no consequence of the step: a
claim that needs it takes FairRun as a premise. -/
structure FairRun (moves : Nat → Move) (r : Nat → State) : Prop where
  /-- Each move is a step. -/
  steps : InfiniteRun moves r
  /-- The clock reaches every time. -/
  clock : ClockUnbounded r
  /-- A RUNNING core goes on. -/
  driver : DriverRunsLoop moves r
  /-- A waiting core goes on checking. -/
  waiter : WaiterChecks moves r

/-- The screen's lock starves no renderer: whenever the renderer asks for a snapshot, one of its snapshots comes at
that move or later (R85, R210; log 25). An assumption on the host's scheduling, like FairRun. -/
def RendererServed (asks : Nat → Prop) (moves : Nat → Move) : Prop :=
  ∀ n, asks n → ∃ k consumeFlag, n ≤ k ∧ moves k = .snapshot consumeFlag

/-! ### The end of a program -/

/-- A run stops at address a: PC = a and the word there is 1aaa, a jump to itself (R451, the spec's definition of a
program's end; the core goes on executing the jump). -/
def State.stopsAt (s : State) (a : Addr12) : Prop := s.PC.toNat = a.toNat ∧ s.fetch = some (encode (.jp a))

end Sys2Proof.Machine
end

