-- ==== Sys2Proof/Certificates/Slice0/Obligations.lean ====
section
/-! DEFINITION. The statements for the provers. Each docstring names the rule of spec/ it formalises and, where the
rule says so, the mark the spec puts on it ([decision ...], [from general knowledge, not in source], [derived ...]).
Frames, readings and the invariant are defined in Sys2Proof/Safety.lean. -/

open Sys2Proof Sys2Proof.Machine

/-! ### Encoding (30_encoding.md) -/

/-- Words written out from the formats of R102 and the map of R104 decode to their instructions, and a word of each
illegal class of R106 is rejected by name (a sanity statement; 95_test_vectors.md V1). -/
def Obligations.SpecWordsDecode : Prop :=
  decodeWord 0b0000_0000_1110_0000#16 = .ok .cls ∧
  decodeWord 0b0000_0000_1110_1110#16 = .ok .ret ∧
  decodeWord 0b0000_0000_1110_0001#16 = .ok (.sys 0x0E1#12) ∧
  decodeWord 0b0010_0011_0000_0000#16 = .ok (.call 0x300#12) ∧
  decodeWord 0b0110_1010_0000_0010#16 = .ok (.ldImm 0xA#4 0x02#8) ∧
  decodeWord 0b1000_0001_0010_1110#16 = .ok (.shl 0x1#4 0x2#4) ∧
  decodeWord 0b1101_0000_0001_0101#16 = .ok (.drw 0x0#4 0x1#4 0x5#4) ∧
  decodeWord 0b1110_0010_1010_0001#16 = .ok (.sknp 0x2#4) ∧
  decodeWord 0b1111_0011_0000_1010#16 = .ok (.ldVxK 0x3#4) ∧
  decodeWord 0b1111_0001_0110_0101#16 = .ok (.ldVxMem 0x1#4) ∧
  decodeWord 0x5121#16 = .error (.illegal5XYn 0x5121#16) ∧
  decodeWord 0x8128#16 = .error (.illegal8XYn 0x8128#16) ∧
  decodeWord 0x912F#16 = .error (.illegal9XYn 0x912F#16) ∧
  decodeWord 0xE100#16 = .error (.illegalEXnn 0xE100#16) ∧
  decodeWord 0xF100#16 = .error (.illegalFXnn 0xF100#16)

/-- Decode and encode agree on all 65536 words and all 35 instructions (R105, "a total function from 16-bit words to
one of the 35 forms"): a word decodes to i exactly when i is well-formed and the word is i's encoding; and an
instruction's two bytes decode to it and leave the bytes after them (R100). -/
def Obligations.DecodeAndEncodeAgree : Prop :=
  (∀ op i, decodeWord op = .ok i ↔ i.wellFormed = true ∧ encode i = op) ∧
  (∀ i rest, i.wellFormed = true → decodeBytes (encodeBytes i ++ rest) = .ok (i, rest))

/-- R106: the illegal words are exactly the five listed classes, each rejected under its own name. -/
def Obligations.IllegalWordsAreTheFiveClasses : Prop :=
  ∀ op : Word,
    (decodeWord op = .error (.illegal5XYn op) ↔ op.toNat / 4096 = 0x5 ∧ op.toNat % 16 ≠ 0) ∧
    (decodeWord op = .error (.illegal8XYn op) ↔
      op.toNat / 4096 = 0x8 ∧ op.toNat % 16 ∈ [0x8, 0x9, 0xA, 0xB, 0xC, 0xD, 0xF]) ∧
    (decodeWord op = .error (.illegal9XYn op) ↔ op.toNat / 4096 = 0x9 ∧ op.toNat % 16 ≠ 0) ∧
    (decodeWord op = .error (.illegalEXnn op) ↔ op.toNat / 4096 = 0xE ∧ op.toNat % 256 ∉ [0x9E, 0xA1]) ∧
    (decodeWord op = .error (.illegalFXnn op) ↔
      op.toNat / 4096 = 0xF ∧ op.toNat % 256 ∉ [0x07, 0x0A, 0x15, 0x18, 0x1E, 0x29, 0x33, 0x55, 0x65]) ∧
    (∀ e, decodeWord op = .error e →
      e ∈ [.illegal5XYn op, .illegal8XYn op, .illegal9XYn op, .illegalEXnn op, .illegalFXnn op])

/-! ### The step (40_execution.md) -/

/-- R131 and R132: a fetch reads the two bytes at PC, high byte first, and does not change PC; at PC ≥ 0x0FFF it is
out of range and the core's step is fatal FetchOutOfRange [decision D12]. -/
def Obligations.FetchReadsTwoBytesOrIsFatal : Prop :=
  (∀ s : State, s.PC.toNat < 0x0FFF → ∃ hi lo op, readByte s s.PC.toNat = some hi ∧
    readByte s (s.PC.toNat + 1) = some lo ∧ s.fetch = some op ∧ op.toNat = hi.toNat * 256 + lo.toNat) ∧
  (∀ forceSync s s', s.run = .running → CoreMovesNext forceSync s s' → 0x0FFF ≤ s.PC.toNat →
    ∃ t, step s = .next t ∧ FatalWith (.fetchOutOfRange s.PC s.cycles) s' t)

/-- R130: when the word at PC decodes to i, the core's step is exec of i after the throttle, and then one count of the
cycle counter if the core is still RUNNING. -/
def Obligations.StepRunsTheDecodedInstruction : Prop :=
  ∀ forceSync s s' op i t, s.run = .running → CoreMovesNext forceSync s s' → s'.fetch = some op →
    decodeWord op = .ok i → exec i (s'.throttle op forceSync) = .next t →
    (t.run = .running → step s = .next { t with cycles := t.cycles + 1 }) ∧ (t.run ≠ .running → step s = .next t)

/-- R134 with R402: a word that decodes to Illegal is fatal. The record holds the opcode, PC and the cycle count, the
core halts with EXIT_STATUS, and nothing else changes (but the clock, when forceSync makes the throttle run first). -/
def Obligations.IllegalWordIsFatal : Prop :=
  ∀ forceSync s s' op e, s.run = .running → CoreMovesNext forceSync s s' → s'.fetch = some op →
    decodeWord op = .error e →
    ∃ t, step s = .next t ∧ FatalWith (.illegalOpcode op s.PC s.cycles) (s'.throttle op forceSync) t ∧
      (forceSync = false → s'.throttle op forceSync = s')

/-- A HALTED machine takes no step, of the core or of any agent its schedule lists: step answers a fault that carries
the status. R148 says that the core takes no further step; that the end is a fault, and that no outside agent moves after
it either, is the model's choice (log 10, DESIGN CHOICE). -/
def Obligations.HaltedCoreTakesNoStep : Prop :=
  ∀ s status, s.run = .halted status → step s = .fault (.halted status)

/-- R409 with R400: every instruction is executed in every state; there is no trap and no mode. exec answers a next
state for each. -/
def Obligations.EveryInstructionExecutes : Prop :=
  ∀ i s, ∃ t, exec i s = .next t

/-- R140: the core's move adds 1 to cycles when it leaves the core RUNNING (an instruction completed, FX0A's at the
end of its wait), and leaves cycles when it does not (a fatal error, a wait that goes on) [decision D26]. -/
def Obligations.CompletedInstructionsCountOnce : Prop :=
  ∀ forceSync s s' t, CoreMovesNext forceSync s s' → step s = .next t →
    (t.run = .running → t.cycles = s.cycles + 1) ∧ (t.run ≠ .running → t.cycles = s.cycles)

/-- R136 with R137 to R139: an instruction that leaves the core RUNNING adds 2 to PC, unless it is a jump or call, a
skip (2 or 4), or 00EE (2 past the popped address, or unchanged on an empty stack); a fatal error or a wait leaves
PC. -/
def Obligations.PcAdvancesByTwoPerNormalStep : Prop :=
  ∀ i s t, s.run = .running → exec i s = .next t →
    (t.run ≠ .running → t.PC = s.PC) ∧
    (t.run = .running →
      match i with
      | .jp nnn | .call nnn => t.PC.toNat = nnn.toNat
      | .jpV0 nnn => t.PC.toNat = (nnn.toNat + (s.reg 0#4).toNat) % 65536
      | .ret => (s.stack = [] ∧ t.PC = s.PC) ∨ ∃ a, s.stack.head? = some a ∧ t.PC.toNat = (a.toNat + 2) % 65536
      | .seImm _ _ | .sneImm _ _ | .seReg _ _ | .sneReg _ _ | .skp _ | .sknp _ =>
        t.PC.toNat = (s.PC.toNat + 2) % 65536 ∨ t.PC.toNat = (s.PC.toNat + 4) % 65536
      | _ => NormalStep s t)

/-- R146: the moves of the run state. RUNNING goes to WAITING_KEY only by an FX0A at PC, and to HALTED only with a
record; WAITING_KEY goes to RUNNING only by a qualifying event or a passed deadline; nothing else changes it. -/
def Obligations.RunStateMovesOnlyAsListed : Prop :=
  ∀ s t, step s = .next t →
    (∀ x tEnd, t.run = .waitingKey x tEnd → s.run = t.run ∨
      (s.run = .running ∧ s.fetch = some (encode (.ldVxK x)))) ∧
    (∀ status, t.run = .halted status → s.run = .running ∧ status = s.cfg.exitStatus ∧
      ∃ d, t.diagnostics = d :: s.diagnostics ∧
        ((∃ op, d = .illegalOpcode op s.PC s.cycles) ∨ d = .fetchOutOfRange s.PC s.cycles ∨
          (∃ op, d = .stackOverflow op s.PC s.cycles))) ∧
    (t.run = .running → s.run = .running ∨ ∃ x tEnd, s.run = .waitingKey x tEnd ∧
      ((∃ e, s.pending = some e ∧ (s.cfg.waitReleaseOnly = true → e.pressed = false)) ∨
        (s.pending = none ∧ ∃ T, tEnd = some T ∧ T ≤ t.clock)))

/-- 40_execution.md section 4 and R448 [derived]: the throttle changes nothing but how much clock time has passed; it
runs only with FREQUENCY > 0 and before a word of THROTTLED or with forceSync; and when it has run, less than 1 ms of
the expected time is left. -/
def Obligations.ThrottleOnlyLetsTimePass : Prop :=
  ∀ op forceSync (s : State), ∃ t, s.throttle op forceSync = t ∧
    t = { s with clock := t.clock, clockReads := t.clockReads } ∧ s.clock ≤ t.clock ∧
    (s.cfg.frequency = 0 → t = s) ∧
    (forceSync = false → (∀ i, decodeWord op = .ok i → i ≠ .cls ∧ (∀ x y n, i ≠ .drw x y n) ∧
      (∀ x, i ≠ .skp x ∧ i ≠ .sknp x ∧ i ≠ .ldVxDt x ∧ i ≠ .ldVxK x ∧ i ≠ .ldDtVx x ∧ i ≠ .ldStVx x)) → t = s) ∧
    (s.cfg.frequency ≠ 0 → (forceSync = true ∨ ∃ i, decodeWord op = .ok i ∧ (i = .cls ∨ (∃ x y n, i = .drw x y n) ∨
      ∃ x, i = .skp x ∨ i = .sknp x ∨ i = .ldVxDt x ∨ i = .ldVxK x ∨ i = .ldDtVx x ∨ i = .ldStVx x)) →
      (s.cycles : ℚ) * 1000000000 / s.cfg.frequency - 1000000 < (t.clock : ℚ) - s.startTime)

/-! ### Reset, memory, the invariant (10_state.md, 20_memory.md, 70_reset_and_hazards.md) -/

/-- 10_state.md section 15 (R61): every piece of state after reset, for every configuration in range [decisions D2 to
D5, D7, D17, D18, D20, D25, D26; sound_active derived], and the program bytes once loaded. That the reset configuration
is standardConfig and the start time free is the model's choice (logs 2, 3, 5). -/
def Obligations.ResetHoldsTheSpecifiedValues : Prop :=
  State.reset = State.construct standardConfig Config.freeStartTime ∧
  ∀ cfg now, cfg.wf = true → ∃ s, s = State.construct cfg now ∧
    (∀ r, s.reg r = 0#8) ∧ s.I = 0#16 ∧ s.PC.toNat = 0x200 ∧ s.stack = [] ∧
    (∀ j (h : j < 80), readByte s (cfg.fontBase.toNat + j) = some cfg.fontTable[j]) ∧
    (∀ a, a < 4096 → (a < cfg.fontBase.toNat ∨ cfg.fontBase.toNat + 80 ≤ a) → readByte s a = some 0#8) ∧
    s.startTime = now ∧ s.delayDeadline = now ∧ s.soundDeadline = now ∧
    (∀ t, now ≤ t → s.delayAt t = 0#8 ∧ s.soundAt t = 0#8 ∧ s.soundActive t = false) ∧
    (∀ p, s.pixel.at p = false) ∧ s.modified = false ∧ (∀ k, ¬KeyDown s k) ∧ s.pending = none ∧ s.cycles = 0 ∧
    s.run = .running ∧
    (∀ bytes j, bytes.length ≤ 3584 → ∀ h : j < bytes.length,
      readByte (s.loadProgram bytes) (0x200 + j) = some bytes[j])

/-- R54 with R63 [the length bound is derived]: before the first CPU step the move `load` writes the whole program at
0x200 and nothing else, or, past 3584 bytes, writes nothing and emits a record (its code is the model's choice, log
12); once an instruction has completed the model refuses it (log 16). That it holds of a load after other loads too is the
model's choice (log 27, DESIGN CHOICE). -/
def Obligations.LoaderWritesAllOrNothing : Prop :=
  ∀ s bytes rest, s.run = .running → s.schedule = .load bytes :: rest → Memory.wf s.cfg s.mem = true →
    (s.cycles = 0 → bytes.length ≤ 3584 → ∃ t, step s = .next t ∧
      t = { s with mem := t.mem, schedule := rest } ∧ SameMemoryOutside 0x200 bytes.length s t ∧
      ∀ j (h : j < bytes.length), readByte t (0x200 + j) = some bytes[j]) ∧
    (s.cycles = 0 → 3584 < bytes.length → ∃ t, step s = .next t ∧
      t = { s with schedule := rest, diagnostics := .programTooLong bytes.length :: s.diagnostics } ∧
      SameMemory s t) ∧
    (s.cycles ≠ 0 → step s = .refused .loadAfterStart)

/-- The invariant of a session (Sys2Proof/Safety.lean) holds at reset. -/
def Obligations.InvariantHoldsAtReset : Prop := State.reset.Inv

/-- Every step keeps the invariant: memory stays canonical, PC at most 0x10FE (R36), stack entries fetchable and within
STACK_LIMIT, the halted core's status EXIT_STATUS, the timers at most 255 sixtieths ahead of the clock, and PC at the
FX0A that waits. -/
def Obligations.EveryStepKeepsTheInvariant : Prop :=
  ∀ s t : State, s.Inv → step s = .next t → t.Inv

/-- R72 and R73: MemRead and MemWrite. In range they read or write exactly the n bytes at addr; out of range they read
or write nothing [decision D14 for the bound]. -/
def Obligations.RangeAccessesAreAllOrNothing : Prop :=
  (∀ s addr n, addr + n ≤ 4096 → ∃ bytes, memRead s addr n = some bytes ∧ bytes.length = n ∧
    ∀ j (h : j < bytes.length), readByte s (addr + j) = some bytes[j]) ∧
  (∀ s addr n, 4096 < addr + n → memRead s addr n = none) ∧
  (∀ s addr bytes, Memory.wf s.cfg s.mem = true → addr + bytes.length ≤ 4096 → ∃ t, memWrite s addr bytes = some t ∧
    t = { s with mem := t.mem } ∧ SameMemoryOutside addr bytes.length s t ∧ Memory.wf t.cfg t.mem = true ∧
    ∀ j (h : j < bytes.length), readByte t (addr + j) = some bytes[j]) ∧
  (∀ s addr bytes, 4096 < addr + bytes.length → memWrite s addr bytes = none)

/-! ### Whole-machine frames -/

/-- 10_state.md sections 2 and 3 (R31, R33): no instruction changes a register other than its destination, VF where it
writes the flag, and V0..VX for FX65. -/
def Obligations.InstructionsWriteOnlyTheirRegisters : Prop :=
  ∀ i s t, exec i s = .next t → SameRegsBut (regsWritten i) s t

/-- 10_state.md and 20_memory.md R37, R39, R42, R79, R87, read over all 35 instructions: memory is written by FX33 and
FX55 alone, I by ANNN, FX1E, FX29 and, without ALT_INDEX, FX55 and FX65, the stack by 2NNN and 00EE, each deadline by
its own set, the screen by 00E0 and DXYN, the pending slot and the run state as listed; the keys, the configuration,
start_time, cycles and the schedule by none. -/
def Obligations.InstructionsWriteOnlyTheirUnits : Prop :=
  ∀ i s t, exec i s = .next t →
    ((∀ x, i ≠ .ldB x ∧ i ≠ .ldMemVx x) → SameMemory s t ∧ t.mem = s.mem) ∧
    (t.I ≠ s.I → (∃ nnn, i = .ldI nnn) ∨ ∃ x, i = .addI x ∨ i = .ldF x ∨
      (s.cfg.altIndex = false ∧ (i = .ldMemVx x ∨ i = .ldVxMem x))) ∧
    (t.stack ≠ s.stack → i = .ret ∨ ∃ nnn, i = .call nnn) ∧
    (t.delayDeadline ≠ s.delayDeadline → ∃ x, i = .ldDtVx x) ∧
    (t.soundDeadline ≠ s.soundDeadline → ∃ x, i = .ldStVx x) ∧
    ((t.pixel ≠ s.pixel ∨ t.modified ≠ s.modified) → i = .cls ∨ ∃ x y n, i = .drw x y n) ∧
    ((t.pending ≠ s.pending ∨ (t.run ≠ s.run ∧ ∃ x tEnd, t.run = .waitingKey x tEnd)) → ∃ x, i = .ldVxK x) ∧
    ((∃ status, t.run ≠ s.run ∧ t.run = .halted status) → ∃ nnn, i = .sys nnn ∨ i = .call nnn) ∧
    t.key = s.key ∧ t.cfg = s.cfg ∧ t.startTime = s.startTime ∧ t.cycles = s.cycles ∧ t.schedule = s.schedule

/-- 10_state.md R38, R48, R49, R51: no step, of the core or of an agent, changes the configuration or start_time, and
the clock and the cycle counter never go back. R63 with R130: in an infinite run whose driver runs the step loop while
the core is RUNNING, a core that stays RUNNING goes on for ever: the cycle counter passes every number. What a run is, and
that the driver's duty is a property of one, has the model's form (log 25, DESIGN CHOICE). -/
def Obligations.ConfigurationIsFixedAndTimeNeverGoesBack : Prop :=
  (∀ s t, step s = .next t →
    t.cfg = s.cfg ∧ t.startTime = s.startTime ∧ s.clock ≤ t.clock ∧ s.cycles ≤ t.cycles) ∧
  (∀ moves r n, InfiniteRun moves r → DriverRunsLoop moves r → (∀ k, n ≤ k → (r k).run = .running) →
    ∀ c, ∃ k, c ≤ (r k).cycles)

/-- R43, R48, R210, R400: no instruction reads the modified flag, the cycle counter or the diagnostics. Two states that
differ in these alone go to states that differ in these alone. -/
def Obligations.ProgramsCannotSeeTheDriversState : Prop :=
  ∀ i s t (m : Bool) (n : Nat) (ds : List Diagnostic), exec i s = .next t →
    ∃ u, exec i { s with modified := m, cycles := n, diagnostics := ds } = .next u ∧
      u = { t with modified := u.modified, cycles := u.cycles, diagnostics := u.diagnostics }

/-! ### ALU instructions (41_alu.md) -/

/-- R161: 6XNN loads NN into VX. -/
def Obligations.LdImmLoadsTheImmediate : Prop :=
  ∀ x nn s, decodeWord (formXNN 0x6#4 x nn) = .ok (.ldImm x nn) ∧
    ∃ t, exec (.ldImm x nn) s = .next t ∧ t.reg x = nn ∧ SameRegsBut [x] s t ∧ NormalStep s t ∧ OnlyRegsPC s t

/-- R162 [from general knowledge, not in source]: 7XNN adds NN to VX modulo 256 and writes no flag. -/
def Obligations.AddImmWrapsWithoutFlag : Prop :=
  ∀ x nn s, decodeWord (formXNN 0x7#4 x nn) = .ok (.addImm x nn) ∧
    ∃ t, exec (.addImm x nn) s = .next t ∧ (t.reg x).toNat = ((s.reg x).toNat + nn.toNat) % 256 ∧
      SameRegsBut [x] s t ∧ NormalStep s t ∧ OnlyRegsPC s t

/-- R163 [from general knowledge, not in source]: 8XY0 copies VY into VX. -/
def Obligations.LdRegCopiesTheRegister : Prop :=
  ∀ x y s, decodeWord (formXYN 0x8#4 x y 0x0#4) = .ok (.ldReg x y) ∧
    ∃ t, exec (.ldReg x y) s = .next t ∧ t.reg x = s.reg y ∧ SameRegsBut [x] s t ∧ NormalStep s t ∧ OnlyRegsPC s t

/-- R164, R165, R166 [from general knowledge, not in source]: 8XY1, 8XY2 and 8XY3 are the bitwise or, and, exclusive
or of VX and VY, and VF is not reset. -/
def Obligations.LogicInstructionsWorkBitByBit : Prop :=
  ∀ x y s,
    (decodeWord (formXYN 0x8#4 x y 0x1#4) = .ok (.orReg x y) ∧ ∃ t, exec (.orReg x y) s = .next t ∧
      (∀ b, (t.reg x).getLsbD b = ((s.reg x).getLsbD b || (s.reg y).getLsbD b)) ∧
      SameRegsBut [x] s t ∧ NormalStep s t ∧ OnlyRegsPC s t) ∧
    (decodeWord (formXYN 0x8#4 x y 0x2#4) = .ok (.andReg x y) ∧ ∃ t, exec (.andReg x y) s = .next t ∧
      (∀ b, (t.reg x).getLsbD b = ((s.reg x).getLsbD b && (s.reg y).getLsbD b)) ∧
      SameRegsBut [x] s t ∧ NormalStep s t ∧ OnlyRegsPC s t) ∧
    (decodeWord (formXYN 0x8#4 x y 0x3#4) = .ok (.xorReg x y) ∧ ∃ t, exec (.xorReg x y) s = .next t ∧
      (∀ b, (t.reg x).getLsbD b = ((s.reg x).getLsbD b ^^ (s.reg y).getLsbD b)) ∧
      SameRegsBut [x] s t ∧ NormalStep s t ∧ OnlyRegsPC s t)

/-- R167: 8XY4 adds modulo 256 and sets VF to 1 iff the sum exceeds 255; VF_ORDER decides VF when X = F [decision
D10]. -/
def Obligations.AddRegSetsTheCarry : Prop :=
  ∀ x y s, decodeWord (formXYN 0x8#4 x y 0x4#4) = .ok (.addReg x y) ∧
    ∃ t, exec (.addReg x y) s = .next t ∧
      WritesResultAndFlag x (((s.reg x).toNat + (s.reg y).toNat) % 256)
        (decide ((s.reg x).toNat + (s.reg y).toNat > 255)) s t ∧
      NormalStep s t ∧ OnlyRegsPC s t

/-- R168: 8XY5 computes VX - VY modulo 256 and sets VF to 1 iff VX ≥ VY (no borrow). -/
def Obligations.SubRegSetsNoBorrow : Prop :=
  ∀ x y s, decodeWord (formXYN 0x8#4 x y 0x5#4) = .ok (.subReg x y) ∧
    ∃ t, exec (.subReg x y) s = .next t ∧
      WritesResultAndFlag x (((s.reg x).toNat + 256 - (s.reg y).toNat) % 256)
        (decide ((s.reg x).toNat ≥ (s.reg y).toNat)) s t ∧
      NormalStep s t ∧ OnlyRegsPC s t

/-- R171 [from general knowledge, not in source, that the minuend is VY]: 8XY7 computes VY - VX modulo 256 and sets VF
to 1 iff VY ≥ VX. -/
def Obligations.SubnSetsNoBorrow : Prop :=
  ∀ x y s, decodeWord (formXYN 0x8#4 x y 0x7#4) = .ok (.subn x y) ∧
    ∃ t, exec (.subn x y) s = .next t ∧
      WritesResultAndFlag x (((s.reg y).toNat + 256 - (s.reg x).toNat) % 256)
        (decide ((s.reg y).toNat ≥ (s.reg x).toNat)) s t ∧
      NormalStep s t ∧ OnlyRegsPC s t

/-- R169 [from general knowledge, not in source, that it shifts right; decision D11]: 8XY6 halves its source, VX under
ALT_SHIFT and VY otherwise, into VX, and VF takes the source's bit 0; VY is not written unless Y = X. -/
def Obligations.ShrShiftsTheSourceRight : Prop :=
  ∀ x y s, decodeWord (formXYN 0x8#4 x y 0x6#4) = .ok (.shr x y) ∧
    ∃ src t, (s.cfg.altShift = true → src = (s.reg x).toNat) ∧ (s.cfg.altShift = false → src = (s.reg y).toNat) ∧
      exec (.shr x y) s = .next t ∧ WritesResultAndFlag x (src / 2) (decide (src % 2 = 1)) s t ∧
      NormalStep s t ∧ OnlyRegsPC s t

/-- R170 [from general knowledge, not in source, that it shifts left; decision D11]: 8XYE doubles its source modulo 256
into VX, and VF takes the source's bit 7. -/
def Obligations.ShlShiftsTheSourceLeft : Prop :=
  ∀ x y s, decodeWord (formXYN 0x8#4 x y 0xE#4) = .ok (.shl x y) ∧
    ∃ src t, (s.cfg.altShift = true → src = (s.reg x).toNat) ∧ (s.cfg.altShift = false → src = (s.reg y).toNat) ∧
      exec (.shl x y) s = .next t ∧ WritesResultAndFlag x (2 * src % 256) (decide (src ≥ 128)) s t ∧
      NormalStep s t ∧ OnlyRegsPC s t

/-- R172 [from general knowledge, not in source]: CXNN writes the next byte of the random source under the mask NN to
VX, whatever that byte is. That the source is a free sequence read by a counter is the model's (log 6). -/
def Obligations.RndMasksAFreeByte : Prop :=
  ∀ x nn s, decodeWord (formXNN 0xC#4 x nn) = .ok (.rnd x nn) ∧
    ∃ t, exec (.rnd x nn) s = .next t ∧
      (∀ b, (t.reg x).getLsbD b = ((s.rand8).getLsbD b && nn.getLsbD b)) ∧ SameRegsBut [x] s t ∧ NormalStep s t ∧
      t = { s with V := t.V, PC := t.PC, randomReads := s.randomReads + 1 } ∧ SameMemory s t

/-! ### Control transfer (46_control.md) -/

/-- R331 [decision D8]: 0NNN other than 00E0 and 00EE does nothing under SYS_MODE = NOP, and is fatal IllegalOpcode
under FATAL. -/
def Obligations.SysIsANoOpOrFatal : Prop :=
  ∀ nnn s, nnn ≠ 0x0E0#12 → nnn ≠ 0x0EE#12 →
    decodeWord (formA 0x0#4 nnn) = .ok (.sys nnn) ∧
    (s.cfg.sysMode = .nop → ∃ t, exec (.sys nnn) s = .next t ∧ NormalStep s t ∧ OnlyPC s t) ∧
    (s.cfg.sysMode = .fatal → ∃ t, exec (.sys nnn) s = .next t ∧
      FatalWith (.illegalOpcode (formA 0x0#4 nnn) s.PC s.cycles) s t)

/-- R332 [decision D7]: 00EE pops the address of a 2NNN and goes 2 past it; on an empty stack it emits a record and
leaves PC, and changes nothing else. -/
def Obligations.RetPopsOrLeavesPc : Prop :=
  ∀ s, decodeWord 0x00EE#16 = .ok .ret ∧
    (s.stack = [] → ∃ t, exec .ret s = .next t ∧ t.PC = s.PC ∧ OnlyPCAndRecord (.stackUnderflow s.PC) s t) ∧
    (∀ a rest, s.stack = a :: rest → ∃ t, exec .ret s = .next t ∧ t.PC.toNat = (a.toNat + 2) % 65536 ∧
      t = { s with PC := t.PC, stack := rest } ∧ SameMemory s t)

/-- R333 and R335 [from general knowledge, not in source; decision D13]: 1NNN jumps to NNN, BNNN to NNN + V0, not
masked to 12 bits. -/
def Obligations.JumpsSetPc : Prop :=
  ∀ nnn s,
    (decodeWord (formA 0x1#4 nnn) = .ok (.jp nnn) ∧
      ∃ t, exec (.jp nnn) s = .next t ∧ t.PC.toNat = nnn.toNat ∧ OnlyPC s t) ∧
    (decodeWord (formA 0xB#4 nnn) = .ok (.jpV0 nnn) ∧
      ∃ t, exec (.jpV0 nnn) s = .next t ∧ t.PC.toNat = (nnn.toNat + (s.reg 0#4).toNat) % 65536 ∧ OnlyPC s t)

/-- R334 [decisions D6, D7]: 2NNN pushes its own address and jumps to NNN; with STACK_LIMIT entries on the stack it is
fatal StackOverflow. -/
def Obligations.CallPushesItsAddress : Prop :=
  ∀ nnn s, decodeWord (formA 0x2#4 nnn) = .ok (.call nnn) ∧
    (s.cfg.stackLimit ≠ some s.stack.length → ∃ t, exec (.call nnn) s = .next t ∧ t.PC.toNat = nnn.toNat ∧
      t.stack = s.PC :: s.stack ∧ t = { s with PC := t.PC, stack := t.stack } ∧ SameMemory s t) ∧
    (s.cfg.stackLimit = some s.stack.length → ∃ t, exec (.call nnn) s = .next t ∧
      FatalWith (.stackOverflow (formA 0x2#4 nnn) s.PC s.cycles) s t)

/-- R336 and R337: 3XNN skips when VX = NN, 4XNN when VX ≠ NN. -/
def Obligations.ImmediateSkipsCompare : Prop :=
  ∀ x nn s,
    (decodeWord (formXNN 0x3#4 x nn) = .ok (.seImm x nn) ∧
      ∃ t, exec (.seImm x nn) s = .next t ∧ SkipsWhen (s.reg x = nn) s t ∧ OnlyPC s t) ∧
    (decodeWord (formXNN 0x4#4 x nn) = .ok (.sneImm x nn) ∧
      ∃ t, exec (.sneImm x nn) s = .next t ∧ SkipsWhen (s.reg x ≠ nn) s t ∧ OnlyPC s t)

/-- R338 and R339 [from general knowledge, not in source]: 5XY0 skips when VX = VY, 9XY0 when VX ≠ VY. -/
def Obligations.RegisterSkipsCompare : Prop :=
  ∀ x y s,
    (decodeWord (formXYN 0x5#4 x y 0x0#4) = .ok (.seReg x y) ∧
      ∃ t, exec (.seReg x y) s = .next t ∧ SkipsWhen (s.reg x = s.reg y) s t ∧ OnlyPC s t) ∧
    (decodeWord (formXYN 0x9#4 x y 0x0#4) = .ok (.sneReg x y) ∧
      ∃ t, exec (.sneReg x y) s = .next t ∧ SkipsWhen (s.reg x ≠ s.reg y) s t ∧ OnlyPC s t)

/-- 70_reset_and_hazards.md R447 [derived]: 00EE on an empty stack livelocks. From such a state the core runs for ever
with PC unchanged, one record and one count a step. -/
def Obligations.StackUnderflowLivelocks : Prop :=
  ∀ (s : State) k, s.run = .running → s.schedule = [] → s.stack = [] → s.fetch = some 0x00EE#16 →
    ∃ t : State, Sys2Proof.core.run k s = .next t ∧ t.PC = s.PC ∧ t.run = .running ∧
      t = { s with
        cycles := s.cycles + k
        diagnostics := List.replicate k (.stackUnderflow s.PC) ++ s.diagnostics }

/-- 70_reset_and_hazards.md section 4 (R451) [decision D35]: at a jump to itself, the spec's end of a program, the core
does not stop. It goes on executing the jump, and nothing changes but the cycle counter. -/
def Obligations.JumpToItselfRepeats : Prop :=
  ∀ (s : State) a k, s.run = .running → s.schedule = [] → s.stopsAt a →
    Sys2Proof.core.run k s = .next { s with cycles := s.cycles + k }

/-! ### Index and memory (45_index_memory.md) -/

/-- R301 and R302 [R301 from general knowledge, not in source; decision D22]: ANNN loads NNN into I; FX1E adds VX to I
modulo 65536 and writes no flag. -/
def Obligations.IndexIsLoadedAndAdvanced : Prop :=
  (∀ nnn s, decodeWord (formA 0xA#4 nnn) = .ok (.ldI nnn) ∧ isThrottled (.ldI nnn) = false ∧
    ∃ t, exec (.ldI nnn) s = .next t ∧ t.I.toNat = nnn.toNat ∧ NormalStep s t ∧
      t = { s with I := t.I, PC := t.PC } ∧ SameMemory s t) ∧
  (∀ x s, decodeWord (formXNN 0xF#4 x 0x1E#8) = .ok (.addI x) ∧ isThrottled (.addI x) = false ∧
    ∃ t, exec (.addI x) s = .next t ∧ t.I.toNat = (s.I.toNat + (s.reg x).toNat) % 65536 ∧ NormalStep s t ∧
      t = { s with I := t.I, PC := t.PC } ∧ SameMemory s t)

/-- R303 [decision D21]: FX29 points I at FONT_BASE + 5d for the low nibble d of VX. -/
def Obligations.FontAddressUsesTheLowNibble : Prop :=
  ∀ x s, decodeWord (formXNN 0xF#4 x 0x29#8) = .ok (.ldF x) ∧
    ∃ t, exec (.ldF x) s = .next t ∧
      t.I.toNat = (s.cfg.fontBase.toNat + 5 * ((s.reg x).toNat % 16)) % 65536 ∧ NormalStep s t ∧
      t = { s with I := t.I, PC := t.PC } ∧ SameMemory s t

/-- R304: FX33 writes VX div 100, (VX div 10) mod 10 and VX mod 10 at I, I+1, I+2 and nothing else; out of range it
changes nothing but PC and emits MemOutOfRange [decision D14]. -/
def Obligations.StoreDigitsWritesThreeBytes : Prop :=
  ∀ x s, decodeWord (formXNN 0xF#4 x 0x33#8) = .ok (.ldB x) ∧
    (Memory.wf s.cfg s.mem = true → s.I.toNat + 3 ≤ 4096 → ∃ t, exec (.ldB x) s = .next t ∧
      (∃ d0 d1 d2, readByte t s.I.toNat = some d0 ∧ readByte t (s.I.toNat + 1) = some d1 ∧
        readByte t (s.I.toNat + 2) = some d2 ∧ d0.toNat = (s.reg x).toNat / 100 ∧
        d1.toNat = (s.reg x).toNat / 10 % 10 ∧ d2.toNat = (s.reg x).toNat % 10) ∧
      SameMemoryOutside s.I.toNat 3 s t ∧ NormalStep s t ∧ t = { s with mem := t.mem, PC := t.PC }) ∧
    (4096 < s.I.toNat + 3 → ∃ t, exec (.ldB x) s = .next t ∧ NormalStep s t ∧
      OnlyPCAndRecord (.memOutOfRange s.I 3) s t)

/-- R305: FX55 writes V0..VX at I..I+X and nothing else, then I grows by X+1 modulo 65536 unless ALT_INDEX; out of range
it changes nothing but PC and emits MemOutOfRange [decision D14]. -/
def Obligations.StoreRegistersWritesTheBlock : Prop :=
  ∀ x s, decodeWord (formXNN 0xF#4 x 0x55#8) = .ok (.ldMemVx x) ∧
    (Memory.wf s.cfg s.mem = true → s.I.toNat + x.toNat + 1 ≤ 4096 → ∃ t, exec (.ldMemVx x) s = .next t ∧
      (∀ r : RegIdx, r.toNat ≤ x.toNat → readByte t (s.I.toNat + r.toNat) = some (s.reg r)) ∧
      SameMemoryOutside s.I.toNat (x.toNat + 1) s t ∧
      (s.cfg.altIndex = false → t.I.toNat = (s.I.toNat + x.toNat + 1) % 65536) ∧
      (s.cfg.altIndex = true → t.I = s.I) ∧ NormalStep s t ∧ t = { s with mem := t.mem, I := t.I, PC := t.PC }) ∧
    (4096 < s.I.toNat + x.toNat + 1 → ∃ t, exec (.ldMemVx x) s = .next t ∧ NormalStep s t ∧
      OnlyPCAndRecord (.memOutOfRange s.I (x.toNat + 1)) s t)

/-- 20_memory.md section 8 (R90) [derived]: bytes that FX55 stores are what a later fetch of them reads: with at least
V0 and V1 stored at I, a fetch at I gives V0 and V1, V0 high. -/
def Obligations.StoredBytesAreFetched : Prop :=
  ∀ (x : RegIdx) s, Memory.wf s.cfg s.mem = true → s.I.toNat + x.toNat + 1 ≤ 4096 → 1 ≤ x.toNat →
    ∃ t op, exec (.ldMemVx x) s = .next t ∧ (t.setPC s.I).fetch = some op ∧
      op.toNat = (s.reg 0#4).toNat * 256 + (s.reg 1#4).toNat

/-- R306: FX65 loads V0..VX from I..I+X, then I grows by X+1 modulo 65536 unless ALT_INDEX; out of range it changes
nothing but PC and emits MemOutOfRange [decision D14]. -/
def Obligations.LoadRegistersReadsTheBlock : Prop :=
  ∀ x s, decodeWord (formXNN 0xF#4 x 0x65#8) = .ok (.ldVxMem x) ∧
    (s.I.toNat + x.toNat + 1 ≤ 4096 → ∃ t, exec (.ldVxMem x) s = .next t ∧
      (∀ r : RegIdx, r.toNat ≤ x.toNat → readByte s (s.I.toNat + r.toNat) = some (t.reg r)) ∧
      (∀ r : RegIdx, x.toNat < r.toNat → t.reg r = s.reg r) ∧
      (s.cfg.altIndex = false → t.I.toNat = (s.I.toNat + x.toNat + 1) % 65536) ∧
      (s.cfg.altIndex = true → t.I = s.I) ∧ NormalStep s t ∧
      t = { s with V := t.V, I := t.I, PC := t.PC } ∧ SameMemory s t) ∧
    (4096 < s.I.toNat + x.toNat + 1 → ∃ t, exec (.ldVxMem x) s = .next t ∧ NormalStep s t ∧
      OnlyPCAndRecord (.memOutOfRange s.I (x.toNat + 1)) s t)

/-- R307: dumping V0..VX and loading them back from the same address reproduces them, whatever the registers held in
between; I ends unchanged under ALT_INDEX and grown by X+1 by each of the two without it. -/
def Obligations.DumpThenLoadRestoresRegisters : Prop :=
  ∀ x s t (between : Vector Byte 16), Memory.wf s.cfg s.mem = true → s.I.toNat + x.toNat + 1 ≤ 4096 →
    exec (.ldMemVx x) s = .next t →
    (s.cfg.altIndex = true → t.I = s.I) ∧ (s.cfg.altIndex = false → t.I.toNat = s.I.toNat + x.toNat + 1) ∧
    ∃ u, exec (.ldVxMem x) { t with V := between, I := s.I } = .next u ∧
      (∀ r : RegIdx, r.toNat ≤ x.toNat → u.reg r = s.reg r) ∧ u.I = t.I

/-! ### Timers (44_timers.md) -/

/-- R277 with R271 and R272 [decision D24]: FX07 writes to VX the delay timer's value at a clock reading no earlier
than the last one, the deadline's distance in sixtieths of a second, rounded half up and held to 0..255. -/
def Obligations.ReadDelayDerivesTheValue : Prop :=
  ∀ x s, decodeWord (formXNN 0xF#4 x 0x07#8) = .ok (.ldVxDt x) ∧ isThrottled (.ldVxDt x) = true ∧
    ∃ t, exec (.ldVxDt x) s = .next t ∧ s.clock ≤ t.clock ∧
      ((t.reg x).toNat : ℤ) =
        min 255 (max 0 ⌊((s.delayDeadline : ℚ) - t.clock) * 60 / 1000000000 + 1 / 2⌋) ∧
      SameRegsBut [x] s t ∧ NormalStep s t ∧
      t = { s with V := t.V, PC := t.PC, clock := t.clock, clockReads := s.clockReads + 1 } ∧ SameMemory s t

/-- R278, R280 with R273 and R279 [decisions D24, D31]: FX15 and FX18 set the deadline VX sixtieths of a second after
the clock reading, to whole nanoseconds, and sound_active is true exactly before the sound deadline. -/
def Obligations.SetTimersFixTheDeadline : Prop :=
  ∀ x s,
    (decodeWord (formXNN 0xF#4 x 0x15#8) = .ok (.ldDtVx x) ∧ isThrottled (.ldDtVx x) = true ∧
      ∃ t, exec (.ldDtVx x) s = .next t ∧ s.clock ≤ t.clock ∧
        (t.delayDeadline : ℤ) = t.clock + ⌊((s.reg x).toNat : ℚ) * 1000000000 / 60⌋ ∧ NormalStep s t ∧
        t = { s with delayDeadline := t.delayDeadline, PC := t.PC, clock := t.clock, clockReads := s.clockReads + 1 } ∧
        SameMemory s t) ∧
    (decodeWord (formXNN 0xF#4 x 0x18#8) = .ok (.ldStVx x) ∧ isThrottled (.ldStVx x) = true ∧
      ∃ t, exec (.ldStVx x) s = .next t ∧ s.clock ≤ t.clock ∧
        (t.soundDeadline : ℤ) = t.clock + ⌊((s.reg x).toNat : ℚ) * 1000000000 / 60⌋ ∧ NormalStep s t ∧
        (∀ T, t.soundActive T = true ↔ T < t.soundDeadline) ∧
        t = { s with soundDeadline := t.soundDeadline, PC := t.PC, clock := t.clock, clockReads := s.clockReads + 1 } ∧
        SameMemory s t)

/-- R275: between two sets a timer's value never grows as time passes; once the clock reaches the deadline it is 0 and
stays 0; and it keeps counting in every run state, because it depends on the deadline and the clock alone. R449 [decision
D33]: that a timer reaches 0 during a run rests on fairness. In an infinite run along which the clock advances without
bound, a timer that is set no more reads 0 from some state on, FX07 (R277) then loads 0, and the sound is off (R279). What
a run is, and that this fairness is a property of one, has the model's form (log 25, DESIGN CHOICE). -/
def Obligations.TimersFallToZeroAndStay : Prop :=
  (∀ d t t', t ≤ t' → (timerValue d t').toNat ≤ (timerValue d t).toNat) ∧
  (∀ d t, d ≤ t → timerValue d t = 0#8) ∧
  (∀ (s : State) r t, (s.setRun r).delayAt t = timerValue s.delayDeadline t ∧
    (s.setRun r).soundAt t = timerValue s.soundDeadline t) ∧
  (∀ moves r n, InfiniteRun moves r → ClockUnbounded r →
    (∀ k, n ≤ k → (r k).delayDeadline = (r n).delayDeadline) →
    ∃ m, ∀ k, m ≤ k → (∀ t, (r k).clock ≤ t → (r k).delayAt t = 0#8) ∧
      ∀ x, ∃ u, exec (.ldVxDt x) (r k) = .next u ∧ u.reg x = 0#8) ∧
  (∀ moves r n, InfiniteRun moves r → ClockUnbounded r →
    (∀ k, n ≤ k → (r k).soundDeadline = (r n).soundDeadline) →
    ∃ m, ∀ k t, m ≤ k → (r k).clock ≤ t → (r k).soundAt t = 0#8 ∧ (r k).soundActive t = false)

/-- 44_timers.md R273 and R276 [derived]: a timer set to n reads n at the same clock time, and at every later time a
value between 0 and n. -/
def Obligations.TimerReadsTheValueSet : Prop :=
  ∀ t (n : Byte), timerValue (deadlineAfter t n) t = n ∧
    ∀ t', t ≤ t' → (timerValue (deadlineAfter t n) t').toNat ≤ n.toNat

/-! ### Keypad (43_keyboard.md) -/

/-- R242 and R243: setKey records a change, over any older event, only when the key's status changes; a repeat, and a
key outside 0 to 15, do nothing [decision D20]. It is one step when it heads the schedule. -/
def Obligations.SetKeyRecordsOnlyChanges : Prop :=
  ∀ s k pressed rest, (∀ status, s.run ≠ .halted status) → s.schedule = .setKey k pressed :: rest →
    ∃ t, step s = .next t ∧
      (15 < k → t = { s with schedule := rest }) ∧
      (∀ h : k < 16, s.key[k] = pressed → t = { s with schedule := rest }) ∧
      (∀ h : k < 16, s.key[k] ≠ pressed → t.key[k] = pressed ∧ (∀ j (hj : j < 16), j ≠ k → t.key[j] = s.key[j]) ∧
        t.pending = some ⟨⟨k, h⟩, pressed⟩ ∧ t = { s with key := t.key, pending := t.pending, schedule := rest })

/-- R247, R248 with R241 [from general knowledge, not in source, which of the two skips]: EX9E skips when key VX is
pressed, EXA1 when it is not; a key above 15 is never pressed. -/
def Obligations.KeySkipsTestTheKey : Prop :=
  ∀ x s,
    (decodeWord (formXNN 0xE#4 x 0x9E#8) = .ok (.skp x) ∧ isThrottled (.skp x) = true ∧
      ∃ t, exec (.skp x) s = .next t ∧ SkipsWhen (KeyDown s (s.reg x).toNat) s t ∧ OnlyPC s t) ∧
    (decodeWord (formXNN 0xE#4 x 0xA1#8) = .ok (.sknp x) ∧ isThrottled (.sknp x) = true ∧
      ∃ t, exec (.sknp x) s = .next t ∧ SkipsWhen (¬KeyDown s (s.reg x).toNat) s t ∧ OnlyPC s t)

/-- R249, phase 1 [decision D18]: FX0A clears the pending slot, fixes the deadline from a clock reading when
WAIT_TIMEOUT is set, and waits; PC, cycles and everything else stay. -/
def Obligations.WaitKeyBeginsTheWait : Prop :=
  ∀ x s, decodeWord (formXNN 0xF#4 x 0x0A#8) = .ok (.ldVxK x) ∧ isThrottled (.ldVxK x) = true ∧
    ∃ t, exec (.ldVxK x) s = .next t ∧ SameMemory s t ∧
      (s.cfg.waitTimeout = none → t = { s with pending := none, run := .waitingKey x none }) ∧
      (∀ ms, s.cfg.waitTimeout = some ms → s.clock ≤ t.clock ∧
        t = { s with
          pending := none
          run := .waitingKey x (some (t.clock + 1000000 * ms))
          clock := t.clock
          clockReads := s.clockReads + 1 })

/-- R249, phase 2, with R250 [decisions D18, D19]: a step of a waiting core. A qualifying event ends the wait with its
key in VX; under WAIT_RELEASE_ONLY a press is dropped and the wait goes on; with no event the wait goes on, or, once
the clock has reached the deadline, ends with VX = 0 and the record InvalidWaitKey -1. An ended wait advances PC by 2
and counts once. The model's own here, not the rules': that a waiting core with nothing to do still takes a step, which
changes nothing but the schedule (log 11, DESIGN CHOICE; R249 enables phase 2 only on an event or a passed deadline, and
R251 says the core has no step); that a check with an empty slot and a deadline reads the clock once, and one with an
event or no deadline does not (log 24, DEDUCED); and clock and clockReads, the fields that a reading changes (log 4,
DESIGN CHOICE). -/
def Obligations.WaitKeyEndsOnAnEventOrTimeout : Prop :=
  ∀ forceSync s s' x tEnd, s.run = .waitingKey x tEnd → CoreMovesNext forceSync s s' → ∃ t, step s = .next t ∧
    SameMemory s t ∧
    (∀ e, s.pending = some e → (s.cfg.waitReleaseOnly = true → e.pressed = false) →
      (t.reg x).toNat = e.key.val ∧ SameRegsBut [x] s t ∧ NormalStep s t ∧
      t = { s' with V := t.V, PC := t.PC, pending := none, run := .running, cycles := s.cycles + 1 }) ∧
    (∀ e, s.pending = some e → s.cfg.waitReleaseOnly = true → e.pressed = true → t = { s' with pending := none }) ∧
    (s.pending = none → tEnd = none → t = s') ∧
    (∀ T, s.pending = none → tEnd = some T → s.clock ≤ t.clock ∧
      (t.clock < T → t = { s' with clock := t.clock, clockReads := s.clockReads + 1 }) ∧
      (T ≤ t.clock → t.reg x = 0#8 ∧ SameRegsBut [x] s t ∧ NormalStep s t ∧
        t = { s' with
          V := t.V
          PC := t.PC
          run := .running
          cycles := s.cycles + 1
          diagnostics := .invalidWaitKey (-1) :: s.diagnostics
          clock := t.clock
          clockReads := s.clockReads + 1 }))

/-- R251: with no timeout and no event, FX0A waits for ever: every number of steps leaves the state as it is. That the
hold is a step that changes nothing is the model's form of it (log 11, DESIGN CHOICE). R63 with R249: a claim that FX0A
finishes needs a premise on the input collaborator. In a fair run in which every event in the slot from some
state of a wait on qualifies (so no press, where only releases count), the wait ends if it has an event in the slot there,
or a deadline. That a waiting core goes on checking is the model's reading (log 26, DEDUCED), and
the form of a run and of its fairness the model's choice (log 25, DESIGN CHOICE). -/
def Obligations.WaitKeyHoldsForEver : Prop :=
  (∀ (s : State) x k, s.run = .waitingKey x none → s.pending = none → s.schedule = [] →
    Sys2Proof.core.run k s = .next s) ∧
  (∀ moves r n x tEnd, FairRun moves r → (r n).run = .waitingKey x tEnd →
    (∀ k e, n ≤ k → (r k).pending = some e → (r k).cfg.waitReleaseOnly = true → e.pressed = false) →
    ((r n).pending ≠ none ∨ tEnd ≠ none) → ∃ k, n ≤ k ∧ (r k).run = .running)

/-! ### Display (42_display.md) -/

/-- R211 with R201 [from general knowledge, not in source, the pattern; decision D17]: 00E0 turns every pixel off and
sets the modified flag. -/
def Obligations.ClearTurnsEveryPixelOff : Prop :=
  ∀ s, decodeWord 0x00E0#16 = .ok .cls ∧ isThrottled .cls = true ∧
    ∃ t, exec .cls s = .next t ∧ (∀ p, t.pixel.at p = false) ∧ t.modified = true ∧ NormalStep s t ∧
      t = { s with pixel := t.pixel, modified := t.modified, PC := t.PC } ∧ SameMemory s t

/-- R202 with R203 to R208 [decisions D15 to D17; R206 from general knowledge, not in source]: a draw of up to 15 rows
flips exactly the pixels the sprite covers, wrapped or clipped by SCREEN_WRAP, sets the modified flag, and reports a
collision iff a pixel that was on was turned off; with start coordinates outside the grid under SCREEN_OOB = REJECT it
emits DrawRejected, draws nothing and reports none. -/
def Obligations.DrawFlipsTheCoveredPixels : Prop :=
  ∀ (rows : List Byte) (x y : Byte) (s : State), rows.length ≤ 15 →
    (((64 ≤ x.toNat ∨ 32 ≤ y.toNat) ∧ s.cfg.screenOob = .reject) →
      s.drawSprite rows x y = ({ s with diagnostics := .drawRejected x y :: s.diagnostics }, false)) ∧
    (((x.toNat < 64 ∧ y.toNat < 32) ∨ s.cfg.screenOob = .wrap) →
      ∃ t hit, s.drawSprite rows x y = (t, hit) ∧ t = { s with pixel := t.pixel, modified := true } ∧
        (∀ p, (Covers s.cfg.screenWrap rows (x.toNat % 64) (y.toNat % 32) p → t.pixel.at p = !s.pixel.at p) ∧
          (¬Covers s.cfg.screenWrap rows (x.toNat % 64) (y.toNat % 32) p → t.pixel.at p = s.pixel.at p)) ∧
        (hit = true ↔ ∃ p, s.pixel.at p = true ∧ t.pixel.at p = false))

/-- R212 with R214 [from general knowledge, not in source, that the sprite is read at I; decision D14]: DXYN reads N
rows at I and draws them at (VX, VY) read before any write, and VF takes the collision; out of range it changes
nothing but PC and emits MemOutOfRange. -/
def Obligations.DrawReadsTheSpriteAtI : Prop :=
  ∀ x y n s, decodeWord (formXYN 0xD#4 x y n) = .ok (.drw x y n) ∧ isThrottled (.drw x y n) = true ∧
    (s.I.toNat + n.toNat ≤ 4096 → ∃ (rows : List Byte) (d : State × Bool) (t : State), rows.length = n.toNat ∧
      (∀ j (h : j < rows.length), readByte s (s.I.toNat + j) = some rows[j]) ∧
      d = s.drawSprite rows (s.reg x) (s.reg y) ∧ exec (.drw x y n) s = .next t ∧
      (t.reg vf).toNat = d.2.toNat ∧ SameRegsBut [vf] s t ∧ NormalStep s t ∧
      t = { d.1 with V := t.V, PC := t.PC } ∧ SameMemory s t) ∧
    (4096 < s.I.toNat + n.toNat → ∃ t, exec (.drw x y n) s = .next t ∧ NormalStep s t ∧
      OnlyPCAndRecord (.memOutOfRange s.I n.toNat) s t)

/-- R215: drawing the same sprite at the same place twice restores the grid, and the second draw reports a collision
exactly when the first turned some pixel on. -/
def Obligations.DrawingTwiceRestoresTheGrid : Prop :=
  ∀ (rows : List Byte) (x y : Byte) (s t u : State) (hit hit' : Bool), rows.length ≤ 15 →
    s.drawSprite rows x y = (t, hit) → t.drawSprite rows x y = (u, hit') →
    u.pixel = s.pixel ∧ (hit' = true ↔ ∃ p, s.pixel.at p = false ∧ t.pixel.at p = true)

/-- R209: snapshot returns a copy of the grid and, when consumeFlag is true, clears the modified flag in the same step;
it changes nothing else, and with consumeFlag false nothing at all. -/
def Obligations.SnapshotCopiesAndConsumes : Prop :=
  (∀ s consume, (State.snapshot consume s).1 = s.pixel) ∧
  (∀ s consume rest, (∀ status, s.run ≠ .halted status) → s.schedule = .snapshot consume :: rest →
    ∃ t, step s = .next t ∧ (consume = true → t = { s with modified := false, schedule := rest }) ∧
      (consume = false → t = { s with schedule := rest }))
end

