-- ==== Sys2Proof/Laws/Decode.lean ====
section
/-! SUPPORT. The fields of a word laid out by a format, and a word as its fields (30_encoding.md R101, R102). -/

namespace Sys2Proof

/-- Concatenation as arithmetic. -/
theorem append_toNat {m n : Nat} (a : BitVec m) (b : BitVec n) : (a ++ b).toNat = a.toNat * 2 ^ n + b.toNat := by
  rw [BitVec.toNat_append, ← Nat.shiftLeft_add_eq_or_of_lt b.isLt, Nat.shiftLeft_eq]

variable (t : Nibble) (x y : RegIdx) (n : Nibble) (nn : Byte) (nnn : Addr12) (op : Word)

theorem formA_toNat : (formA t nnn).toNat = t.toNat * 4096 + nnn.toNat := append_toNat t nnn

theorem formXNN_toNat : (formXNN t x nn).toNat = t.toNat * 4096 + x.toNat * 256 + nn.toNat := by
  have h := append_toNat (t ++ x) nn
  rw [append_toNat t x] at h
  unfold formXNN
  simp only [h]
  omega

theorem formXYN_toNat : (formXYN t x y n).toNat = t.toNat * 4096 + x.toNat * 256 + y.toNat * 16 + n.toNat := by
  have h := append_toNat (t ++ x ++ y) n
  rw [append_toNat (t ++ x) y, append_toNat t x] at h
  unfold formXYN
  simp only [h]
  omega

theorem composeWord_toNat (hi lo : Byte) : (composeWord hi lo).toNat = hi.toNat * 256 + lo.toNat := append_toNat hi lo

/-! ### Fields as arithmetic -/

theorem fieldT_toNat : (fieldT op).toNat = op.toNat / 4096 := by
  have := op.isLt
  simp only [fieldT, BitVec.extractLsb'_toNat, Nat.shiftRight_eq_div_pow]
  omega

theorem fieldX_toNat : (fieldX op).toNat = op.toNat / 256 % 16 := by
  simp only [fieldX, BitVec.extractLsb'_toNat, Nat.shiftRight_eq_div_pow]

theorem fieldY_toNat : (fieldY op).toNat = op.toNat / 16 % 16 := by
  simp only [fieldY, BitVec.extractLsb'_toNat, Nat.shiftRight_eq_div_pow]

theorem fieldN_toNat : (fieldN op).toNat = op.toNat % 16 := by
  simp only [fieldN, BitVec.extractLsb'_toNat, Nat.shiftRight_eq_div_pow]; omega

theorem fieldNN_toNat : (fieldNN op).toNat = op.toNat % 256 := by
  simp only [fieldNN, BitVec.extractLsb'_toNat, Nat.shiftRight_eq_div_pow]; omega

theorem fieldNNN_toNat : (fieldNNN op).toNat = op.toNat % 4096 := by
  simp only [fieldNNN, BitVec.extractLsb'_toNat, Nat.shiftRight_eq_div_pow]; omega

/-! ### The fields of a format -/

@[simp] theorem fieldT_formA : fieldT (formA t nnn) = t := by
  apply BitVec.eq_of_toNat_eq; have := nnn.isLt; rw [fieldT_toNat, formA_toNat]; omega

@[simp] theorem fieldNNN_formA : fieldNNN (formA t nnn) = nnn := by
  apply BitVec.eq_of_toNat_eq; have := nnn.isLt; rw [fieldNNN_toNat, formA_toNat]; omega

@[simp] theorem fieldT_formXNN : fieldT (formXNN t x nn) = t := by
  apply BitVec.eq_of_toNat_eq; have := nn.isLt; have := x.isLt; rw [fieldT_toNat, formXNN_toNat]; omega

@[simp] theorem fieldX_formXNN : fieldX (formXNN t x nn) = x := by
  apply BitVec.eq_of_toNat_eq; have := nn.isLt; have := x.isLt; rw [fieldX_toNat, formXNN_toNat]; omega

@[simp] theorem fieldNN_formXNN : fieldNN (formXNN t x nn) = nn := by
  apply BitVec.eq_of_toNat_eq; have := nn.isLt; have := x.isLt; rw [fieldNN_toNat, formXNN_toNat]; omega

@[simp] theorem fieldT_formXYN : fieldT (formXYN t x y n) = t := by
  apply BitVec.eq_of_toNat_eq; have := y.isLt; have := x.isLt; have := n.isLt; rw [fieldT_toNat, formXYN_toNat]; omega

@[simp] theorem fieldX_formXYN : fieldX (formXYN t x y n) = x := by
  apply BitVec.eq_of_toNat_eq; have := y.isLt; have := x.isLt; have := n.isLt; rw [fieldX_toNat, formXYN_toNat]; omega

@[simp] theorem fieldY_formXYN : fieldY (formXYN t x y n) = y := by
  apply BitVec.eq_of_toNat_eq; have := y.isLt; have := x.isLt; have := n.isLt; rw [fieldY_toNat, formXYN_toNat]; omega

@[simp] theorem fieldN_formXYN : fieldN (formXYN t x y n) = n := by
  apply BitVec.eq_of_toNat_eq; have := y.isLt; have := x.isLt; have := n.isLt; rw [fieldN_toNat, formXYN_toNat]; omega

/-! ### A word as its fields -/

theorem formA_fields : formA (fieldT op) (fieldNNN op) = op := by
  apply BitVec.eq_of_toNat_eq; rw [formA_toNat, fieldT_toNat, fieldNNN_toNat]; omega

theorem formXNN_fields : formXNN (fieldT op) (fieldX op) (fieldNN op) = op := by
  apply BitVec.eq_of_toNat_eq; rw [formXNN_toNat, fieldT_toNat, fieldX_toNat, fieldNN_toNat]; omega

theorem formXYN_fields : formXYN (fieldT op) (fieldX op) (fieldY op) (fieldN op) = op := by
  apply BitVec.eq_of_toNat_eq
  rw [formXYN_toNat, fieldT_toNat, fieldX_toNat, fieldY_toNat, fieldN_toNat]; omega

/-- The two bytes of a word compose to it (R76). -/
@[simp] theorem composeWord_wordBytes : composeWord (op.extractLsb' 8 8) (op.extractLsb' 0 8) = op := by
  apply BitVec.eq_of_toNat_eq
  rw [composeWord_toNat, BitVec.extractLsb'_toNat, BitVec.extractLsb'_toNat, Nat.shiftRight_eq_div_pow]
  simp only [Nat.reducePow, Nat.shiftRight_zero]
  have := op.isLt
  omega

/-- The bytes of a word decode as the word, and the bytes after them are left. -/
theorem decodeBytes_wordBytes (rest : List Byte) :
    decodeBytes (wordBytes op ++ rest) = (decodeWord op).map (·, rest) := by
  simp [wordBytes, decodeBytes]

/-- A word of major opcode 0 to F goes to the arm of its opcode; the arms' own lemmas are the cases of decodeWord. -/
theorem decodeWord_formXNN_F : decodeWord (formXNN 0xF#4 x nn) = decodeF (formXNN 0xF#4 x nn) := by
  simp [decodeWord]

theorem decodeWord_formXNN_E : decodeWord (formXNN 0xE#4 x nn) = decodeE (formXNN 0xE#4 x nn) := by
  simp [decodeWord]

theorem decodeWord_formXYN_8 : decodeWord (formXYN 0x8#4 x y n) = decode8 (formXYN 0x8#4 x y n) := by
  simp [decodeWord]

end Sys2Proof
end

