-- ==== Sys2Proof/Laws/State.lean ====
section
/-! SUPPORT. One lemma for each field of State under each named update, true by rfl, so that no later proof unfolds a
record update. -/

namespace Sys2Proof.Machine

/-- readByte depends on the configuration and memory alone. -/
theorem readByte_congr {s t : State} (hc : t.cfg = s.cfg) (hm : t.mem = s.mem) (k : Nat) :
    readByte t k = readByte s k := by
  simp only [readByte, hc, hm]

/-- fetch depends on the configuration, memory and PC alone. -/
theorem fetch_congr {s t : State} (hc : t.cfg = s.cfg) (hm : t.mem = s.mem) (hp : t.PC = s.PC) :
    t.fetch = s.fetch := by
  simp only [State.fetch, memRead, hc, hm, hp]

variable (s : State)


/-! ### setReg -/

@[simp] theorem setReg_cfg (x : RegIdx) (v : Byte) : (s.setReg x v).cfg = s.cfg := rfl
@[simp] theorem setReg_V (x : RegIdx) (v : Byte) : (s.setReg x v).V = s.V.set x.toNat v x.isLt := rfl
@[simp] theorem setReg_I (x : RegIdx) (v : Byte) : (s.setReg x v).I = s.I := rfl
@[simp] theorem setReg_PC (x : RegIdx) (v : Byte) : (s.setReg x v).PC = s.PC := rfl
@[simp] theorem setReg_stack (x : RegIdx) (v : Byte) : (s.setReg x v).stack = s.stack := rfl
@[simp] theorem setReg_mem (x : RegIdx) (v : Byte) : (s.setReg x v).mem = s.mem := rfl
@[simp] theorem setReg_delayDeadline (x : RegIdx) (v : Byte) : (s.setReg x v).delayDeadline = s.delayDeadline := rfl
@[simp] theorem setReg_soundDeadline (x : RegIdx) (v : Byte) : (s.setReg x v).soundDeadline = s.soundDeadline := rfl
@[simp] theorem setReg_pixel (x : RegIdx) (v : Byte) : (s.setReg x v).pixel = s.pixel := rfl
@[simp] theorem setReg_modified (x : RegIdx) (v : Byte) : (s.setReg x v).modified = s.modified := rfl
@[simp] theorem setReg_key (x : RegIdx) (v : Byte) : (s.setReg x v).key = s.key := rfl
@[simp] theorem setReg_pending (x : RegIdx) (v : Byte) : (s.setReg x v).pending = s.pending := rfl
@[simp] theorem setReg_cycles (x : RegIdx) (v : Byte) : (s.setReg x v).cycles = s.cycles := rfl
@[simp] theorem setReg_startTime (x : RegIdx) (v : Byte) : (s.setReg x v).startTime = s.startTime := rfl
@[simp] theorem setReg_run (x : RegIdx) (v : Byte) : (s.setReg x v).run = s.run := rfl
@[simp] theorem setReg_diagnostics (x : RegIdx) (v : Byte) : (s.setReg x v).diagnostics = s.diagnostics := rfl
@[simp] theorem setReg_clock (x : RegIdx) (v : Byte) : (s.setReg x v).clock = s.clock := rfl
@[simp] theorem setReg_clockReads (x : RegIdx) (v : Byte) : (s.setReg x v).clockReads = s.clockReads := rfl
@[simp] theorem setReg_randomReads (x : RegIdx) (v : Byte) : (s.setReg x v).randomReads = s.randomReads := rfl
@[simp] theorem setReg_schedule (x : RegIdx) (v : Byte) : (s.setReg x v).schedule = s.schedule := rfl
@[simp] theorem setReg_readByte (k : Nat) (x : RegIdx) (v : Byte) : readByte (s.setReg x v) k = readByte s k := readByte_congr (by simp) (by simp) k
@[simp] theorem setReg_fetch (x : RegIdx) (v : Byte) : (s.setReg x v).fetch = s.fetch := fetch_congr (by simp) (by simp) (by simp)

/-! ### loadRegs -/

@[simp] theorem loadRegs_cfg (bytes : List Byte) : (s.loadRegs bytes).cfg = s.cfg := by simp only [State.loadRegs]
@[simp] theorem loadRegs_I (bytes : List Byte) : (s.loadRegs bytes).I = s.I := by simp only [State.loadRegs]
@[simp] theorem loadRegs_PC (bytes : List Byte) : (s.loadRegs bytes).PC = s.PC := by simp only [State.loadRegs]
@[simp] theorem loadRegs_stack (bytes : List Byte) : (s.loadRegs bytes).stack = s.stack := by simp only [State.loadRegs]
@[simp] theorem loadRegs_mem (bytes : List Byte) : (s.loadRegs bytes).mem = s.mem := by simp only [State.loadRegs]
@[simp] theorem loadRegs_delayDeadline (bytes : List Byte) : (s.loadRegs bytes).delayDeadline = s.delayDeadline := by simp only [State.loadRegs]
@[simp] theorem loadRegs_soundDeadline (bytes : List Byte) : (s.loadRegs bytes).soundDeadline = s.soundDeadline := by simp only [State.loadRegs]
@[simp] theorem loadRegs_pixel (bytes : List Byte) : (s.loadRegs bytes).pixel = s.pixel := by simp only [State.loadRegs]
@[simp] theorem loadRegs_modified (bytes : List Byte) : (s.loadRegs bytes).modified = s.modified := by simp only [State.loadRegs]
@[simp] theorem loadRegs_key (bytes : List Byte) : (s.loadRegs bytes).key = s.key := by simp only [State.loadRegs]
@[simp] theorem loadRegs_pending (bytes : List Byte) : (s.loadRegs bytes).pending = s.pending := by simp only [State.loadRegs]
@[simp] theorem loadRegs_cycles (bytes : List Byte) : (s.loadRegs bytes).cycles = s.cycles := by simp only [State.loadRegs]
@[simp] theorem loadRegs_startTime (bytes : List Byte) : (s.loadRegs bytes).startTime = s.startTime := by simp only [State.loadRegs]
@[simp] theorem loadRegs_run (bytes : List Byte) : (s.loadRegs bytes).run = s.run := by simp only [State.loadRegs]
@[simp] theorem loadRegs_diagnostics (bytes : List Byte) : (s.loadRegs bytes).diagnostics = s.diagnostics := by simp only [State.loadRegs]
@[simp] theorem loadRegs_clock (bytes : List Byte) : (s.loadRegs bytes).clock = s.clock := by simp only [State.loadRegs]
@[simp] theorem loadRegs_clockReads (bytes : List Byte) : (s.loadRegs bytes).clockReads = s.clockReads := by simp only [State.loadRegs]
@[simp] theorem loadRegs_randomReads (bytes : List Byte) : (s.loadRegs bytes).randomReads = s.randomReads := by simp only [State.loadRegs]
@[simp] theorem loadRegs_schedule (bytes : List Byte) : (s.loadRegs bytes).schedule = s.schedule := by simp only [State.loadRegs]
@[simp] theorem loadRegs_readByte (k : Nat) (bytes : List Byte) : readByte (s.loadRegs bytes) k = readByte s k := readByte_congr (by simp) (by simp) k
@[simp] theorem loadRegs_fetch (bytes : List Byte) : (s.loadRegs bytes).fetch = s.fetch := fetch_congr (by simp) (by simp) (by simp)

/-! ### setI -/

@[simp] theorem setI_cfg (v : Word) : (s.setI v).cfg = s.cfg := rfl
@[simp] theorem setI_V (v : Word) : (s.setI v).V = s.V := rfl
@[simp] theorem setI_I (v : Word) : (s.setI v).I = v := rfl
@[simp] theorem setI_PC (v : Word) : (s.setI v).PC = s.PC := rfl
@[simp] theorem setI_stack (v : Word) : (s.setI v).stack = s.stack := rfl
@[simp] theorem setI_mem (v : Word) : (s.setI v).mem = s.mem := rfl
@[simp] theorem setI_delayDeadline (v : Word) : (s.setI v).delayDeadline = s.delayDeadline := rfl
@[simp] theorem setI_soundDeadline (v : Word) : (s.setI v).soundDeadline = s.soundDeadline := rfl
@[simp] theorem setI_pixel (v : Word) : (s.setI v).pixel = s.pixel := rfl
@[simp] theorem setI_modified (v : Word) : (s.setI v).modified = s.modified := rfl
@[simp] theorem setI_key (v : Word) : (s.setI v).key = s.key := rfl
@[simp] theorem setI_pending (v : Word) : (s.setI v).pending = s.pending := rfl
@[simp] theorem setI_cycles (v : Word) : (s.setI v).cycles = s.cycles := rfl
@[simp] theorem setI_startTime (v : Word) : (s.setI v).startTime = s.startTime := rfl
@[simp] theorem setI_run (v : Word) : (s.setI v).run = s.run := rfl
@[simp] theorem setI_diagnostics (v : Word) : (s.setI v).diagnostics = s.diagnostics := rfl
@[simp] theorem setI_clock (v : Word) : (s.setI v).clock = s.clock := rfl
@[simp] theorem setI_clockReads (v : Word) : (s.setI v).clockReads = s.clockReads := rfl
@[simp] theorem setI_randomReads (v : Word) : (s.setI v).randomReads = s.randomReads := rfl
@[simp] theorem setI_schedule (v : Word) : (s.setI v).schedule = s.schedule := rfl
@[simp] theorem setI_reg (q : RegIdx) (v : Word) : (s.setI v).reg q = s.reg q := rfl
@[simp] theorem setI_readByte (k : Nat) (v : Word) : readByte (s.setI v) k = readByte s k := readByte_congr (by simp) (by simp) k
@[simp] theorem setI_fetch (v : Word) : (s.setI v).fetch = s.fetch := fetch_congr (by simp) (by simp) (by simp)

/-! ### setPC -/

@[simp] theorem setPC_cfg (a : Word) : (s.setPC a).cfg = s.cfg := rfl
@[simp] theorem setPC_V (a : Word) : (s.setPC a).V = s.V := rfl
@[simp] theorem setPC_I (a : Word) : (s.setPC a).I = s.I := rfl
@[simp] theorem setPC_PC (a : Word) : (s.setPC a).PC = a := rfl
@[simp] theorem setPC_stack (a : Word) : (s.setPC a).stack = s.stack := rfl
@[simp] theorem setPC_mem (a : Word) : (s.setPC a).mem = s.mem := rfl
@[simp] theorem setPC_delayDeadline (a : Word) : (s.setPC a).delayDeadline = s.delayDeadline := rfl
@[simp] theorem setPC_soundDeadline (a : Word) : (s.setPC a).soundDeadline = s.soundDeadline := rfl
@[simp] theorem setPC_pixel (a : Word) : (s.setPC a).pixel = s.pixel := rfl
@[simp] theorem setPC_modified (a : Word) : (s.setPC a).modified = s.modified := rfl
@[simp] theorem setPC_key (a : Word) : (s.setPC a).key = s.key := rfl
@[simp] theorem setPC_pending (a : Word) : (s.setPC a).pending = s.pending := rfl
@[simp] theorem setPC_cycles (a : Word) : (s.setPC a).cycles = s.cycles := rfl
@[simp] theorem setPC_startTime (a : Word) : (s.setPC a).startTime = s.startTime := rfl
@[simp] theorem setPC_run (a : Word) : (s.setPC a).run = s.run := rfl
@[simp] theorem setPC_diagnostics (a : Word) : (s.setPC a).diagnostics = s.diagnostics := rfl
@[simp] theorem setPC_clock (a : Word) : (s.setPC a).clock = s.clock := rfl
@[simp] theorem setPC_clockReads (a : Word) : (s.setPC a).clockReads = s.clockReads := rfl
@[simp] theorem setPC_randomReads (a : Word) : (s.setPC a).randomReads = s.randomReads := rfl
@[simp] theorem setPC_schedule (a : Word) : (s.setPC a).schedule = s.schedule := rfl
@[simp] theorem setPC_reg (q : RegIdx) (a : Word) : (s.setPC a).reg q = s.reg q := rfl
@[simp] theorem setPC_readByte (k : Nat) (a : Word) : readByte (s.setPC a) k = readByte s k := readByte_congr (by simp) (by simp) k

/-! ### advance -/

@[simp] theorem advance_cfg : (s.advance).cfg = s.cfg := rfl
@[simp] theorem advance_V : (s.advance).V = s.V := rfl
@[simp] theorem advance_I : (s.advance).I = s.I := rfl
@[simp] theorem advance_PC : (s.advance).PC = s.PC + 2#16 := rfl
@[simp] theorem advance_stack : (s.advance).stack = s.stack := rfl
@[simp] theorem advance_mem : (s.advance).mem = s.mem := rfl
@[simp] theorem advance_delayDeadline : (s.advance).delayDeadline = s.delayDeadline := rfl
@[simp] theorem advance_soundDeadline : (s.advance).soundDeadline = s.soundDeadline := rfl
@[simp] theorem advance_pixel : (s.advance).pixel = s.pixel := rfl
@[simp] theorem advance_modified : (s.advance).modified = s.modified := rfl
@[simp] theorem advance_key : (s.advance).key = s.key := rfl
@[simp] theorem advance_pending : (s.advance).pending = s.pending := rfl
@[simp] theorem advance_cycles : (s.advance).cycles = s.cycles := rfl
@[simp] theorem advance_startTime : (s.advance).startTime = s.startTime := rfl
@[simp] theorem advance_run : (s.advance).run = s.run := rfl
@[simp] theorem advance_diagnostics : (s.advance).diagnostics = s.diagnostics := rfl
@[simp] theorem advance_clock : (s.advance).clock = s.clock := rfl
@[simp] theorem advance_clockReads : (s.advance).clockReads = s.clockReads := rfl
@[simp] theorem advance_randomReads : (s.advance).randomReads = s.randomReads := rfl
@[simp] theorem advance_schedule : (s.advance).schedule = s.schedule := rfl
@[simp] theorem advance_reg (q : RegIdx) : (s.advance).reg q = s.reg q := rfl
@[simp] theorem advance_readByte (k : Nat) : readByte (s.advance) k = readByte s k := readByte_congr (by simp) (by simp) k

/-! ### setStack -/

@[simp] theorem setStack_cfg (l : List Word) : (s.setStack l).cfg = s.cfg := rfl
@[simp] theorem setStack_V (l : List Word) : (s.setStack l).V = s.V := rfl
@[simp] theorem setStack_I (l : List Word) : (s.setStack l).I = s.I := rfl
@[simp] theorem setStack_PC (l : List Word) : (s.setStack l).PC = s.PC := rfl
@[simp] theorem setStack_stack (l : List Word) : (s.setStack l).stack = l := rfl
@[simp] theorem setStack_mem (l : List Word) : (s.setStack l).mem = s.mem := rfl
@[simp] theorem setStack_delayDeadline (l : List Word) : (s.setStack l).delayDeadline = s.delayDeadline := rfl
@[simp] theorem setStack_soundDeadline (l : List Word) : (s.setStack l).soundDeadline = s.soundDeadline := rfl
@[simp] theorem setStack_pixel (l : List Word) : (s.setStack l).pixel = s.pixel := rfl
@[simp] theorem setStack_modified (l : List Word) : (s.setStack l).modified = s.modified := rfl
@[simp] theorem setStack_key (l : List Word) : (s.setStack l).key = s.key := rfl
@[simp] theorem setStack_pending (l : List Word) : (s.setStack l).pending = s.pending := rfl
@[simp] theorem setStack_cycles (l : List Word) : (s.setStack l).cycles = s.cycles := rfl
@[simp] theorem setStack_startTime (l : List Word) : (s.setStack l).startTime = s.startTime := rfl
@[simp] theorem setStack_run (l : List Word) : (s.setStack l).run = s.run := rfl
@[simp] theorem setStack_diagnostics (l : List Word) : (s.setStack l).diagnostics = s.diagnostics := rfl
@[simp] theorem setStack_clock (l : List Word) : (s.setStack l).clock = s.clock := rfl
@[simp] theorem setStack_clockReads (l : List Word) : (s.setStack l).clockReads = s.clockReads := rfl
@[simp] theorem setStack_randomReads (l : List Word) : (s.setStack l).randomReads = s.randomReads := rfl
@[simp] theorem setStack_schedule (l : List Word) : (s.setStack l).schedule = s.schedule := rfl
@[simp] theorem setStack_reg (q : RegIdx) (l : List Word) : (s.setStack l).reg q = s.reg q := rfl
@[simp] theorem setStack_readByte (k : Nat) (l : List Word) : readByte (s.setStack l) k = readByte s k := readByte_congr (by simp) (by simp) k
@[simp] theorem setStack_fetch (l : List Word) : (s.setStack l).fetch = s.fetch := fetch_congr (by simp) (by simp) (by simp)

/-! ### clockRead -/

@[simp] theorem clockRead_cfg : (s.clockRead).cfg = s.cfg := rfl
@[simp] theorem clockRead_V : (s.clockRead).V = s.V := rfl
@[simp] theorem clockRead_I : (s.clockRead).I = s.I := rfl
@[simp] theorem clockRead_PC : (s.clockRead).PC = s.PC := rfl
@[simp] theorem clockRead_stack : (s.clockRead).stack = s.stack := rfl
@[simp] theorem clockRead_mem : (s.clockRead).mem = s.mem := rfl
@[simp] theorem clockRead_delayDeadline : (s.clockRead).delayDeadline = s.delayDeadline := rfl
@[simp] theorem clockRead_soundDeadline : (s.clockRead).soundDeadline = s.soundDeadline := rfl
@[simp] theorem clockRead_pixel : (s.clockRead).pixel = s.pixel := rfl
@[simp] theorem clockRead_modified : (s.clockRead).modified = s.modified := rfl
@[simp] theorem clockRead_key : (s.clockRead).key = s.key := rfl
@[simp] theorem clockRead_pending : (s.clockRead).pending = s.pending := rfl
@[simp] theorem clockRead_cycles : (s.clockRead).cycles = s.cycles := rfl
@[simp] theorem clockRead_startTime : (s.clockRead).startTime = s.startTime := rfl
@[simp] theorem clockRead_run : (s.clockRead).run = s.run := rfl
@[simp] theorem clockRead_diagnostics : (s.clockRead).diagnostics = s.diagnostics := rfl
@[simp] theorem clockRead_clock : (s.clockRead).clock = s.now := rfl
@[simp] theorem clockRead_clockReads : (s.clockRead).clockReads = s.clockReads + 1 := rfl
@[simp] theorem clockRead_randomReads : (s.clockRead).randomReads = s.randomReads := rfl
@[simp] theorem clockRead_schedule : (s.clockRead).schedule = s.schedule := rfl
@[simp] theorem clockRead_reg (q : RegIdx) : (s.clockRead).reg q = s.reg q := rfl
@[simp] theorem clockRead_readByte (k : Nat) : readByte (s.clockRead) k = readByte s k := readByte_congr (by simp) (by simp) k
@[simp] theorem clockRead_fetch : (s.clockRead).fetch = s.fetch := fetch_congr (by simp) (by simp) (by simp)

/-! ### randomRead -/

@[simp] theorem randomRead_cfg : (s.randomRead).cfg = s.cfg := rfl
@[simp] theorem randomRead_V : (s.randomRead).V = s.V := rfl
@[simp] theorem randomRead_I : (s.randomRead).I = s.I := rfl
@[simp] theorem randomRead_PC : (s.randomRead).PC = s.PC := rfl
@[simp] theorem randomRead_stack : (s.randomRead).stack = s.stack := rfl
@[simp] theorem randomRead_mem : (s.randomRead).mem = s.mem := rfl
@[simp] theorem randomRead_delayDeadline : (s.randomRead).delayDeadline = s.delayDeadline := rfl
@[simp] theorem randomRead_soundDeadline : (s.randomRead).soundDeadline = s.soundDeadline := rfl
@[simp] theorem randomRead_pixel : (s.randomRead).pixel = s.pixel := rfl
@[simp] theorem randomRead_modified : (s.randomRead).modified = s.modified := rfl
@[simp] theorem randomRead_key : (s.randomRead).key = s.key := rfl
@[simp] theorem randomRead_pending : (s.randomRead).pending = s.pending := rfl
@[simp] theorem randomRead_cycles : (s.randomRead).cycles = s.cycles := rfl
@[simp] theorem randomRead_startTime : (s.randomRead).startTime = s.startTime := rfl
@[simp] theorem randomRead_run : (s.randomRead).run = s.run := rfl
@[simp] theorem randomRead_diagnostics : (s.randomRead).diagnostics = s.diagnostics := rfl
@[simp] theorem randomRead_clock : (s.randomRead).clock = s.clock := rfl
@[simp] theorem randomRead_clockReads : (s.randomRead).clockReads = s.clockReads := rfl
@[simp] theorem randomRead_randomReads : (s.randomRead).randomReads = s.randomReads + 1 := rfl
@[simp] theorem randomRead_schedule : (s.randomRead).schedule = s.schedule := rfl
@[simp] theorem randomRead_reg (q : RegIdx) : (s.randomRead).reg q = s.reg q := rfl
@[simp] theorem randomRead_readByte (k : Nat) : readByte (s.randomRead) k = readByte s k := readByte_congr (by simp) (by simp) k
@[simp] theorem randomRead_fetch : (s.randomRead).fetch = s.fetch := fetch_congr (by simp) (by simp) (by simp)

/-! ### logDiag -/

@[simp] theorem logDiag_cfg (d : Diagnostic) : (s.logDiag d).cfg = s.cfg := rfl
@[simp] theorem logDiag_V (d : Diagnostic) : (s.logDiag d).V = s.V := rfl
@[simp] theorem logDiag_I (d : Diagnostic) : (s.logDiag d).I = s.I := rfl
@[simp] theorem logDiag_PC (d : Diagnostic) : (s.logDiag d).PC = s.PC := rfl
@[simp] theorem logDiag_stack (d : Diagnostic) : (s.logDiag d).stack = s.stack := rfl
@[simp] theorem logDiag_mem (d : Diagnostic) : (s.logDiag d).mem = s.mem := rfl
@[simp] theorem logDiag_delayDeadline (d : Diagnostic) : (s.logDiag d).delayDeadline = s.delayDeadline := rfl
@[simp] theorem logDiag_soundDeadline (d : Diagnostic) : (s.logDiag d).soundDeadline = s.soundDeadline := rfl
@[simp] theorem logDiag_pixel (d : Diagnostic) : (s.logDiag d).pixel = s.pixel := rfl
@[simp] theorem logDiag_modified (d : Diagnostic) : (s.logDiag d).modified = s.modified := rfl
@[simp] theorem logDiag_key (d : Diagnostic) : (s.logDiag d).key = s.key := rfl
@[simp] theorem logDiag_pending (d : Diagnostic) : (s.logDiag d).pending = s.pending := rfl
@[simp] theorem logDiag_cycles (d : Diagnostic) : (s.logDiag d).cycles = s.cycles := rfl
@[simp] theorem logDiag_startTime (d : Diagnostic) : (s.logDiag d).startTime = s.startTime := rfl
@[simp] theorem logDiag_run (d : Diagnostic) : (s.logDiag d).run = s.run := rfl
@[simp] theorem logDiag_diagnostics (d : Diagnostic) : (s.logDiag d).diagnostics = d :: s.diagnostics := rfl
@[simp] theorem logDiag_clock (d : Diagnostic) : (s.logDiag d).clock = s.clock := rfl
@[simp] theorem logDiag_clockReads (d : Diagnostic) : (s.logDiag d).clockReads = s.clockReads := rfl
@[simp] theorem logDiag_randomReads (d : Diagnostic) : (s.logDiag d).randomReads = s.randomReads := rfl
@[simp] theorem logDiag_schedule (d : Diagnostic) : (s.logDiag d).schedule = s.schedule := rfl
@[simp] theorem logDiag_reg (q : RegIdx) (d : Diagnostic) : (s.logDiag d).reg q = s.reg q := rfl
@[simp] theorem logDiag_readByte (k : Nat) (d : Diagnostic) : readByte (s.logDiag d) k = readByte s k := readByte_congr (by simp) (by simp) k
@[simp] theorem logDiag_fetch (d : Diagnostic) : (s.logDiag d).fetch = s.fetch := fetch_congr (by simp) (by simp) (by simp)

/-! ### setRun -/

@[simp] theorem setRun_cfg (r : RunState) : (s.setRun r).cfg = s.cfg := rfl
@[simp] theorem setRun_V (r : RunState) : (s.setRun r).V = s.V := rfl
@[simp] theorem setRun_I (r : RunState) : (s.setRun r).I = s.I := rfl
@[simp] theorem setRun_PC (r : RunState) : (s.setRun r).PC = s.PC := rfl
@[simp] theorem setRun_stack (r : RunState) : (s.setRun r).stack = s.stack := rfl
@[simp] theorem setRun_mem (r : RunState) : (s.setRun r).mem = s.mem := rfl
@[simp] theorem setRun_delayDeadline (r : RunState) : (s.setRun r).delayDeadline = s.delayDeadline := rfl
@[simp] theorem setRun_soundDeadline (r : RunState) : (s.setRun r).soundDeadline = s.soundDeadline := rfl
@[simp] theorem setRun_pixel (r : RunState) : (s.setRun r).pixel = s.pixel := rfl
@[simp] theorem setRun_modified (r : RunState) : (s.setRun r).modified = s.modified := rfl
@[simp] theorem setRun_key (r : RunState) : (s.setRun r).key = s.key := rfl
@[simp] theorem setRun_pending (r : RunState) : (s.setRun r).pending = s.pending := rfl
@[simp] theorem setRun_cycles (r : RunState) : (s.setRun r).cycles = s.cycles := rfl
@[simp] theorem setRun_startTime (r : RunState) : (s.setRun r).startTime = s.startTime := rfl
@[simp] theorem setRun_run (r : RunState) : (s.setRun r).run = r := rfl
@[simp] theorem setRun_diagnostics (r : RunState) : (s.setRun r).diagnostics = s.diagnostics := rfl
@[simp] theorem setRun_clock (r : RunState) : (s.setRun r).clock = s.clock := rfl
@[simp] theorem setRun_clockReads (r : RunState) : (s.setRun r).clockReads = s.clockReads := rfl
@[simp] theorem setRun_randomReads (r : RunState) : (s.setRun r).randomReads = s.randomReads := rfl
@[simp] theorem setRun_schedule (r : RunState) : (s.setRun r).schedule = s.schedule := rfl
@[simp] theorem setRun_reg (q : RegIdx) (r : RunState) : (s.setRun r).reg q = s.reg q := rfl
@[simp] theorem setRun_readByte (k : Nat) (r : RunState) : readByte (s.setRun r) k = readByte s k := readByte_congr (by simp) (by simp) k
@[simp] theorem setRun_fetch (r : RunState) : (s.setRun r).fetch = s.fetch := fetch_congr (by simp) (by simp) (by simp)

/-! ### raiseFatal -/

@[simp] theorem raiseFatal_cfg (d : Diagnostic) : (s.raiseFatal d).cfg = s.cfg := rfl
@[simp] theorem raiseFatal_V (d : Diagnostic) : (s.raiseFatal d).V = s.V := rfl
@[simp] theorem raiseFatal_I (d : Diagnostic) : (s.raiseFatal d).I = s.I := rfl
@[simp] theorem raiseFatal_PC (d : Diagnostic) : (s.raiseFatal d).PC = s.PC := rfl
@[simp] theorem raiseFatal_stack (d : Diagnostic) : (s.raiseFatal d).stack = s.stack := rfl
@[simp] theorem raiseFatal_mem (d : Diagnostic) : (s.raiseFatal d).mem = s.mem := rfl
@[simp] theorem raiseFatal_delayDeadline (d : Diagnostic) : (s.raiseFatal d).delayDeadline = s.delayDeadline := rfl
@[simp] theorem raiseFatal_soundDeadline (d : Diagnostic) : (s.raiseFatal d).soundDeadline = s.soundDeadline := rfl
@[simp] theorem raiseFatal_pixel (d : Diagnostic) : (s.raiseFatal d).pixel = s.pixel := rfl
@[simp] theorem raiseFatal_modified (d : Diagnostic) : (s.raiseFatal d).modified = s.modified := rfl
@[simp] theorem raiseFatal_key (d : Diagnostic) : (s.raiseFatal d).key = s.key := rfl
@[simp] theorem raiseFatal_pending (d : Diagnostic) : (s.raiseFatal d).pending = s.pending := rfl
@[simp] theorem raiseFatal_cycles (d : Diagnostic) : (s.raiseFatal d).cycles = s.cycles := rfl
@[simp] theorem raiseFatal_startTime (d : Diagnostic) : (s.raiseFatal d).startTime = s.startTime := rfl
@[simp] theorem raiseFatal_run (d : Diagnostic) : (s.raiseFatal d).run = .halted s.cfg.exitStatus := rfl
@[simp] theorem raiseFatal_diagnostics (d : Diagnostic) : (s.raiseFatal d).diagnostics = d :: s.diagnostics := rfl
@[simp] theorem raiseFatal_clock (d : Diagnostic) : (s.raiseFatal d).clock = s.clock := rfl
@[simp] theorem raiseFatal_clockReads (d : Diagnostic) : (s.raiseFatal d).clockReads = s.clockReads := rfl
@[simp] theorem raiseFatal_randomReads (d : Diagnostic) : (s.raiseFatal d).randomReads = s.randomReads := rfl
@[simp] theorem raiseFatal_schedule (d : Diagnostic) : (s.raiseFatal d).schedule = s.schedule := rfl
@[simp] theorem raiseFatal_reg (q : RegIdx) (d : Diagnostic) : (s.raiseFatal d).reg q = s.reg q := rfl
@[simp] theorem raiseFatal_readByte (k : Nat) (d : Diagnostic) : readByte (s.raiseFatal d) k = readByte s k := readByte_congr (by simp) (by simp) k
@[simp] theorem raiseFatal_fetch (d : Diagnostic) : (s.raiseFatal d).fetch = s.fetch := fetch_congr (by simp) (by simp) (by simp)

/-! ### countCycle -/

@[simp] theorem countCycle_cfg : (s.countCycle).cfg = s.cfg := rfl
@[simp] theorem countCycle_V : (s.countCycle).V = s.V := rfl
@[simp] theorem countCycle_I : (s.countCycle).I = s.I := rfl
@[simp] theorem countCycle_PC : (s.countCycle).PC = s.PC := rfl
@[simp] theorem countCycle_stack : (s.countCycle).stack = s.stack := rfl
@[simp] theorem countCycle_mem : (s.countCycle).mem = s.mem := rfl
@[simp] theorem countCycle_delayDeadline : (s.countCycle).delayDeadline = s.delayDeadline := rfl
@[simp] theorem countCycle_soundDeadline : (s.countCycle).soundDeadline = s.soundDeadline := rfl
@[simp] theorem countCycle_pixel : (s.countCycle).pixel = s.pixel := rfl
@[simp] theorem countCycle_modified : (s.countCycle).modified = s.modified := rfl
@[simp] theorem countCycle_key : (s.countCycle).key = s.key := rfl
@[simp] theorem countCycle_pending : (s.countCycle).pending = s.pending := rfl
@[simp] theorem countCycle_cycles : (s.countCycle).cycles = s.cycles + 1 := rfl
@[simp] theorem countCycle_startTime : (s.countCycle).startTime = s.startTime := rfl
@[simp] theorem countCycle_run : (s.countCycle).run = s.run := rfl
@[simp] theorem countCycle_diagnostics : (s.countCycle).diagnostics = s.diagnostics := rfl
@[simp] theorem countCycle_clock : (s.countCycle).clock = s.clock := rfl
@[simp] theorem countCycle_clockReads : (s.countCycle).clockReads = s.clockReads := rfl
@[simp] theorem countCycle_randomReads : (s.countCycle).randomReads = s.randomReads := rfl
@[simp] theorem countCycle_schedule : (s.countCycle).schedule = s.schedule := rfl
@[simp] theorem countCycle_reg (q : RegIdx) : (s.countCycle).reg q = s.reg q := rfl
@[simp] theorem countCycle_readByte (k : Nat) : readByte (s.countCycle) k = readByte s k := readByte_congr (by simp) (by simp) k
@[simp] theorem countCycle_fetch : (s.countCycle).fetch = s.fetch := fetch_congr (by simp) (by simp) (by simp)

/-! ### setCollision -/

@[simp] theorem setCollision_cfg (c : Bool) : (s.setCollision c).cfg = s.cfg := rfl
@[simp] theorem setCollision_I (c : Bool) : (s.setCollision c).I = s.I := rfl
@[simp] theorem setCollision_PC (c : Bool) : (s.setCollision c).PC = s.PC := rfl
@[simp] theorem setCollision_stack (c : Bool) : (s.setCollision c).stack = s.stack := rfl
@[simp] theorem setCollision_mem (c : Bool) : (s.setCollision c).mem = s.mem := rfl
@[simp] theorem setCollision_delayDeadline (c : Bool) : (s.setCollision c).delayDeadline = s.delayDeadline := rfl
@[simp] theorem setCollision_soundDeadline (c : Bool) : (s.setCollision c).soundDeadline = s.soundDeadline := rfl
@[simp] theorem setCollision_pixel (c : Bool) : (s.setCollision c).pixel = s.pixel := rfl
@[simp] theorem setCollision_modified (c : Bool) : (s.setCollision c).modified = s.modified := rfl
@[simp] theorem setCollision_key (c : Bool) : (s.setCollision c).key = s.key := rfl
@[simp] theorem setCollision_pending (c : Bool) : (s.setCollision c).pending = s.pending := rfl
@[simp] theorem setCollision_cycles (c : Bool) : (s.setCollision c).cycles = s.cycles := rfl
@[simp] theorem setCollision_startTime (c : Bool) : (s.setCollision c).startTime = s.startTime := rfl
@[simp] theorem setCollision_run (c : Bool) : (s.setCollision c).run = s.run := rfl
@[simp] theorem setCollision_diagnostics (c : Bool) : (s.setCollision c).diagnostics = s.diagnostics := rfl
@[simp] theorem setCollision_clock (c : Bool) : (s.setCollision c).clock = s.clock := rfl
@[simp] theorem setCollision_clockReads (c : Bool) : (s.setCollision c).clockReads = s.clockReads := rfl
@[simp] theorem setCollision_randomReads (c : Bool) : (s.setCollision c).randomReads = s.randomReads := rfl
@[simp] theorem setCollision_schedule (c : Bool) : (s.setCollision c).schedule = s.schedule := rfl
@[simp] theorem setCollision_readByte (k : Nat) (c : Bool) : readByte (s.setCollision c) k = readByte s k := readByte_congr (by simp) (by simp) k
@[simp] theorem setCollision_fetch (c : Bool) : (s.setCollision c).fetch = s.fetch := fetch_congr (by simp) (by simp) (by simp)

/-! ### clearScreen -/

@[simp] theorem clearScreen_cfg : (s.clearScreen).cfg = s.cfg := rfl
@[simp] theorem clearScreen_V : (s.clearScreen).V = s.V := rfl
@[simp] theorem clearScreen_I : (s.clearScreen).I = s.I := rfl
@[simp] theorem clearScreen_PC : (s.clearScreen).PC = s.PC := rfl
@[simp] theorem clearScreen_stack : (s.clearScreen).stack = s.stack := rfl
@[simp] theorem clearScreen_mem : (s.clearScreen).mem = s.mem := rfl
@[simp] theorem clearScreen_delayDeadline : (s.clearScreen).delayDeadline = s.delayDeadline := rfl
@[simp] theorem clearScreen_soundDeadline : (s.clearScreen).soundDeadline = s.soundDeadline := rfl
@[simp] theorem clearScreen_pixel : (s.clearScreen).pixel = Grid.blank := rfl
@[simp] theorem clearScreen_modified : (s.clearScreen).modified = true := rfl
@[simp] theorem clearScreen_key : (s.clearScreen).key = s.key := rfl
@[simp] theorem clearScreen_pending : (s.clearScreen).pending = s.pending := rfl
@[simp] theorem clearScreen_cycles : (s.clearScreen).cycles = s.cycles := rfl
@[simp] theorem clearScreen_startTime : (s.clearScreen).startTime = s.startTime := rfl
@[simp] theorem clearScreen_run : (s.clearScreen).run = s.run := rfl
@[simp] theorem clearScreen_diagnostics : (s.clearScreen).diagnostics = s.diagnostics := rfl
@[simp] theorem clearScreen_clock : (s.clearScreen).clock = s.clock := rfl
@[simp] theorem clearScreen_clockReads : (s.clearScreen).clockReads = s.clockReads := rfl
@[simp] theorem clearScreen_randomReads : (s.clearScreen).randomReads = s.randomReads := rfl
@[simp] theorem clearScreen_schedule : (s.clearScreen).schedule = s.schedule := rfl
@[simp] theorem clearScreen_reg (q : RegIdx) : (s.clearScreen).reg q = s.reg q := rfl
@[simp] theorem clearScreen_readByte (k : Nat) : readByte (s.clearScreen) k = readByte s k := readByte_congr (by simp) (by simp) k
@[simp] theorem clearScreen_fetch : (s.clearScreen).fetch = s.fetch := fetch_congr (by simp) (by simp) (by simp)

/-! ### clearPending -/

@[simp] theorem clearPending_cfg : (s.clearPending).cfg = s.cfg := rfl
@[simp] theorem clearPending_V : (s.clearPending).V = s.V := rfl
@[simp] theorem clearPending_I : (s.clearPending).I = s.I := rfl
@[simp] theorem clearPending_PC : (s.clearPending).PC = s.PC := rfl
@[simp] theorem clearPending_stack : (s.clearPending).stack = s.stack := rfl
@[simp] theorem clearPending_mem : (s.clearPending).mem = s.mem := rfl
@[simp] theorem clearPending_delayDeadline : (s.clearPending).delayDeadline = s.delayDeadline := rfl
@[simp] theorem clearPending_soundDeadline : (s.clearPending).soundDeadline = s.soundDeadline := rfl
@[simp] theorem clearPending_pixel : (s.clearPending).pixel = s.pixel := rfl
@[simp] theorem clearPending_modified : (s.clearPending).modified = s.modified := rfl
@[simp] theorem clearPending_key : (s.clearPending).key = s.key := rfl
@[simp] theorem clearPending_pending : (s.clearPending).pending = none := rfl
@[simp] theorem clearPending_cycles : (s.clearPending).cycles = s.cycles := rfl
@[simp] theorem clearPending_startTime : (s.clearPending).startTime = s.startTime := rfl
@[simp] theorem clearPending_run : (s.clearPending).run = s.run := rfl
@[simp] theorem clearPending_diagnostics : (s.clearPending).diagnostics = s.diagnostics := rfl
@[simp] theorem clearPending_clock : (s.clearPending).clock = s.clock := rfl
@[simp] theorem clearPending_clockReads : (s.clearPending).clockReads = s.clockReads := rfl
@[simp] theorem clearPending_randomReads : (s.clearPending).randomReads = s.randomReads := rfl
@[simp] theorem clearPending_schedule : (s.clearPending).schedule = s.schedule := rfl
@[simp] theorem clearPending_reg (q : RegIdx) : (s.clearPending).reg q = s.reg q := rfl
@[simp] theorem clearPending_readByte (k : Nat) : readByte (s.clearPending) k = readByte s k := readByte_congr (by simp) (by simp) k
@[simp] theorem clearPending_fetch : (s.clearPending).fetch = s.fetch := fetch_congr (by simp) (by simp) (by simp)

/-! ### setDelayDeadline -/

@[simp] theorem setDelayDeadline_cfg (d : Nat) : (s.setDelayDeadline d).cfg = s.cfg := rfl
@[simp] theorem setDelayDeadline_V (d : Nat) : (s.setDelayDeadline d).V = s.V := rfl
@[simp] theorem setDelayDeadline_I (d : Nat) : (s.setDelayDeadline d).I = s.I := rfl
@[simp] theorem setDelayDeadline_PC (d : Nat) : (s.setDelayDeadline d).PC = s.PC := rfl
@[simp] theorem setDelayDeadline_stack (d : Nat) : (s.setDelayDeadline d).stack = s.stack := rfl
@[simp] theorem setDelayDeadline_mem (d : Nat) : (s.setDelayDeadline d).mem = s.mem := rfl
@[simp] theorem setDelayDeadline_delayDeadline (d : Nat) : (s.setDelayDeadline d).delayDeadline = d := rfl
@[simp] theorem setDelayDeadline_soundDeadline (d : Nat) : (s.setDelayDeadline d).soundDeadline = s.soundDeadline := rfl
@[simp] theorem setDelayDeadline_pixel (d : Nat) : (s.setDelayDeadline d).pixel = s.pixel := rfl
@[simp] theorem setDelayDeadline_modified (d : Nat) : (s.setDelayDeadline d).modified = s.modified := rfl
@[simp] theorem setDelayDeadline_key (d : Nat) : (s.setDelayDeadline d).key = s.key := rfl
@[simp] theorem setDelayDeadline_pending (d : Nat) : (s.setDelayDeadline d).pending = s.pending := rfl
@[simp] theorem setDelayDeadline_cycles (d : Nat) : (s.setDelayDeadline d).cycles = s.cycles := rfl
@[simp] theorem setDelayDeadline_startTime (d : Nat) : (s.setDelayDeadline d).startTime = s.startTime := rfl
@[simp] theorem setDelayDeadline_run (d : Nat) : (s.setDelayDeadline d).run = s.run := rfl
@[simp] theorem setDelayDeadline_diagnostics (d : Nat) : (s.setDelayDeadline d).diagnostics = s.diagnostics := rfl
@[simp] theorem setDelayDeadline_clock (d : Nat) : (s.setDelayDeadline d).clock = s.clock := rfl
@[simp] theorem setDelayDeadline_clockReads (d : Nat) : (s.setDelayDeadline d).clockReads = s.clockReads := rfl
@[simp] theorem setDelayDeadline_randomReads (d : Nat) : (s.setDelayDeadline d).randomReads = s.randomReads := rfl
@[simp] theorem setDelayDeadline_schedule (d : Nat) : (s.setDelayDeadline d).schedule = s.schedule := rfl
@[simp] theorem setDelayDeadline_reg (q : RegIdx) (d : Nat) : (s.setDelayDeadline d).reg q = s.reg q := rfl
@[simp] theorem setDelayDeadline_readByte (k : Nat) (d : Nat) : readByte (s.setDelayDeadline d) k = readByte s k := readByte_congr (by simp) (by simp) k
@[simp] theorem setDelayDeadline_fetch (d : Nat) : (s.setDelayDeadline d).fetch = s.fetch := fetch_congr (by simp) (by simp) (by simp)

/-! ### setSoundDeadline -/

@[simp] theorem setSoundDeadline_cfg (d : Nat) : (s.setSoundDeadline d).cfg = s.cfg := rfl
@[simp] theorem setSoundDeadline_V (d : Nat) : (s.setSoundDeadline d).V = s.V := rfl
@[simp] theorem setSoundDeadline_I (d : Nat) : (s.setSoundDeadline d).I = s.I := rfl
@[simp] theorem setSoundDeadline_PC (d : Nat) : (s.setSoundDeadline d).PC = s.PC := rfl
@[simp] theorem setSoundDeadline_stack (d : Nat) : (s.setSoundDeadline d).stack = s.stack := rfl
@[simp] theorem setSoundDeadline_mem (d : Nat) : (s.setSoundDeadline d).mem = s.mem := rfl
@[simp] theorem setSoundDeadline_delayDeadline (d : Nat) : (s.setSoundDeadline d).delayDeadline = s.delayDeadline := rfl
@[simp] theorem setSoundDeadline_soundDeadline (d : Nat) : (s.setSoundDeadline d).soundDeadline = d := rfl
@[simp] theorem setSoundDeadline_pixel (d : Nat) : (s.setSoundDeadline d).pixel = s.pixel := rfl
@[simp] theorem setSoundDeadline_modified (d : Nat) : (s.setSoundDeadline d).modified = s.modified := rfl
@[simp] theorem setSoundDeadline_key (d : Nat) : (s.setSoundDeadline d).key = s.key := rfl
@[simp] theorem setSoundDeadline_pending (d : Nat) : (s.setSoundDeadline d).pending = s.pending := rfl
@[simp] theorem setSoundDeadline_cycles (d : Nat) : (s.setSoundDeadline d).cycles = s.cycles := rfl
@[simp] theorem setSoundDeadline_startTime (d : Nat) : (s.setSoundDeadline d).startTime = s.startTime := rfl
@[simp] theorem setSoundDeadline_run (d : Nat) : (s.setSoundDeadline d).run = s.run := rfl
@[simp] theorem setSoundDeadline_diagnostics (d : Nat) : (s.setSoundDeadline d).diagnostics = s.diagnostics := rfl
@[simp] theorem setSoundDeadline_clock (d : Nat) : (s.setSoundDeadline d).clock = s.clock := rfl
@[simp] theorem setSoundDeadline_clockReads (d : Nat) : (s.setSoundDeadline d).clockReads = s.clockReads := rfl
@[simp] theorem setSoundDeadline_randomReads (d : Nat) : (s.setSoundDeadline d).randomReads = s.randomReads := rfl
@[simp] theorem setSoundDeadline_schedule (d : Nat) : (s.setSoundDeadline d).schedule = s.schedule := rfl
@[simp] theorem setSoundDeadline_reg (q : RegIdx) (d : Nat) : (s.setSoundDeadline d).reg q = s.reg q := rfl
@[simp] theorem setSoundDeadline_readByte (k : Nat) (d : Nat) : readByte (s.setSoundDeadline d) k = readByte s k := readByte_congr (by simp) (by simp) k
@[simp] theorem setSoundDeadline_fetch (d : Nat) : (s.setSoundDeadline d).fetch = s.fetch := fetch_congr (by simp) (by simp) (by simp)

/-! ### throttle -/

@[simp] theorem throttle_cfg (op : Word) (f : Bool) : (s.throttle op f).cfg = s.cfg := rfl
@[simp] theorem throttle_V (op : Word) (f : Bool) : (s.throttle op f).V = s.V := rfl
@[simp] theorem throttle_I (op : Word) (f : Bool) : (s.throttle op f).I = s.I := rfl
@[simp] theorem throttle_PC (op : Word) (f : Bool) : (s.throttle op f).PC = s.PC := rfl
@[simp] theorem throttle_stack (op : Word) (f : Bool) : (s.throttle op f).stack = s.stack := rfl
@[simp] theorem throttle_mem (op : Word) (f : Bool) : (s.throttle op f).mem = s.mem := rfl
@[simp] theorem throttle_delayDeadline (op : Word) (f : Bool) : (s.throttle op f).delayDeadline = s.delayDeadline := rfl
@[simp] theorem throttle_soundDeadline (op : Word) (f : Bool) : (s.throttle op f).soundDeadline = s.soundDeadline := rfl
@[simp] theorem throttle_pixel (op : Word) (f : Bool) : (s.throttle op f).pixel = s.pixel := rfl
@[simp] theorem throttle_modified (op : Word) (f : Bool) : (s.throttle op f).modified = s.modified := rfl
@[simp] theorem throttle_key (op : Word) (f : Bool) : (s.throttle op f).key = s.key := rfl
@[simp] theorem throttle_pending (op : Word) (f : Bool) : (s.throttle op f).pending = s.pending := rfl
@[simp] theorem throttle_cycles (op : Word) (f : Bool) : (s.throttle op f).cycles = s.cycles := rfl
@[simp] theorem throttle_startTime (op : Word) (f : Bool) : (s.throttle op f).startTime = s.startTime := rfl
@[simp] theorem throttle_run (op : Word) (f : Bool) : (s.throttle op f).run = s.run := rfl
@[simp] theorem throttle_diagnostics (op : Word) (f : Bool) : (s.throttle op f).diagnostics = s.diagnostics := rfl
@[simp] theorem throttle_randomReads (op : Word) (f : Bool) : (s.throttle op f).randomReads = s.randomReads := rfl
@[simp] theorem throttle_schedule (op : Word) (f : Bool) : (s.throttle op f).schedule = s.schedule := rfl
@[simp] theorem throttle_reg (q : RegIdx) (op : Word) (f : Bool) : (s.throttle op f).reg q = s.reg q := rfl
@[simp] theorem throttle_readByte (k : Nat) (op : Word) (f : Bool) : readByte (s.throttle op f) k = readByte s k := readByte_congr (by simp) (by simp) k
@[simp] theorem throttle_fetch (op : Word) (f : Bool) : (s.throttle op f).fetch = s.fetch := fetch_congr (by simp) (by simp) (by simp)

/-! ### advanceClock -/

@[simp] theorem advanceClock_cfg (n : Nat) : (s.advanceClock n).cfg = s.cfg := rfl
@[simp] theorem advanceClock_V (n : Nat) : (s.advanceClock n).V = s.V := rfl
@[simp] theorem advanceClock_I (n : Nat) : (s.advanceClock n).I = s.I := rfl
@[simp] theorem advanceClock_PC (n : Nat) : (s.advanceClock n).PC = s.PC := rfl
@[simp] theorem advanceClock_stack (n : Nat) : (s.advanceClock n).stack = s.stack := rfl
@[simp] theorem advanceClock_mem (n : Nat) : (s.advanceClock n).mem = s.mem := rfl
@[simp] theorem advanceClock_delayDeadline (n : Nat) : (s.advanceClock n).delayDeadline = s.delayDeadline := rfl
@[simp] theorem advanceClock_soundDeadline (n : Nat) : (s.advanceClock n).soundDeadline = s.soundDeadline := rfl
@[simp] theorem advanceClock_pixel (n : Nat) : (s.advanceClock n).pixel = s.pixel := rfl
@[simp] theorem advanceClock_modified (n : Nat) : (s.advanceClock n).modified = s.modified := rfl
@[simp] theorem advanceClock_key (n : Nat) : (s.advanceClock n).key = s.key := rfl
@[simp] theorem advanceClock_pending (n : Nat) : (s.advanceClock n).pending = s.pending := rfl
@[simp] theorem advanceClock_cycles (n : Nat) : (s.advanceClock n).cycles = s.cycles := rfl
@[simp] theorem advanceClock_startTime (n : Nat) : (s.advanceClock n).startTime = s.startTime := rfl
@[simp] theorem advanceClock_run (n : Nat) : (s.advanceClock n).run = s.run := rfl
@[simp] theorem advanceClock_diagnostics (n : Nat) : (s.advanceClock n).diagnostics = s.diagnostics := rfl
@[simp] theorem advanceClock_clock (n : Nat) : (s.advanceClock n).clock = s.clock + n := rfl
@[simp] theorem advanceClock_clockReads (n : Nat) : (s.advanceClock n).clockReads = s.clockReads := rfl
@[simp] theorem advanceClock_randomReads (n : Nat) : (s.advanceClock n).randomReads = s.randomReads := rfl
@[simp] theorem advanceClock_schedule (n : Nat) : (s.advanceClock n).schedule = s.schedule := rfl
@[simp] theorem advanceClock_reg (q : RegIdx) (n : Nat) : (s.advanceClock n).reg q = s.reg q := rfl
@[simp] theorem advanceClock_readByte (k : Nat) (n : Nat) : readByte (s.advanceClock n) k = readByte s k := readByte_congr (by simp) (by simp) k
@[simp] theorem advanceClock_fetch (n : Nat) : (s.advanceClock n).fetch = s.fetch := fetch_congr (by simp) (by simp) (by simp)

/-! ### setSchedule -/

@[simp] theorem setSchedule_cfg (l : List Move) : (s.setSchedule l).cfg = s.cfg := rfl
@[simp] theorem setSchedule_V (l : List Move) : (s.setSchedule l).V = s.V := rfl
@[simp] theorem setSchedule_I (l : List Move) : (s.setSchedule l).I = s.I := rfl
@[simp] theorem setSchedule_PC (l : List Move) : (s.setSchedule l).PC = s.PC := rfl
@[simp] theorem setSchedule_stack (l : List Move) : (s.setSchedule l).stack = s.stack := rfl
@[simp] theorem setSchedule_mem (l : List Move) : (s.setSchedule l).mem = s.mem := rfl
@[simp] theorem setSchedule_delayDeadline (l : List Move) : (s.setSchedule l).delayDeadline = s.delayDeadline := rfl
@[simp] theorem setSchedule_soundDeadline (l : List Move) : (s.setSchedule l).soundDeadline = s.soundDeadline := rfl
@[simp] theorem setSchedule_pixel (l : List Move) : (s.setSchedule l).pixel = s.pixel := rfl
@[simp] theorem setSchedule_modified (l : List Move) : (s.setSchedule l).modified = s.modified := rfl
@[simp] theorem setSchedule_key (l : List Move) : (s.setSchedule l).key = s.key := rfl
@[simp] theorem setSchedule_pending (l : List Move) : (s.setSchedule l).pending = s.pending := rfl
@[simp] theorem setSchedule_cycles (l : List Move) : (s.setSchedule l).cycles = s.cycles := rfl
@[simp] theorem setSchedule_startTime (l : List Move) : (s.setSchedule l).startTime = s.startTime := rfl
@[simp] theorem setSchedule_run (l : List Move) : (s.setSchedule l).run = s.run := rfl
@[simp] theorem setSchedule_diagnostics (l : List Move) : (s.setSchedule l).diagnostics = s.diagnostics := rfl
@[simp] theorem setSchedule_clock (l : List Move) : (s.setSchedule l).clock = s.clock := rfl
@[simp] theorem setSchedule_clockReads (l : List Move) : (s.setSchedule l).clockReads = s.clockReads := rfl
@[simp] theorem setSchedule_randomReads (l : List Move) : (s.setSchedule l).randomReads = s.randomReads := rfl
@[simp] theorem setSchedule_schedule (l : List Move) : (s.setSchedule l).schedule = l := rfl
@[simp] theorem setSchedule_reg (q : RegIdx) (l : List Move) : (s.setSchedule l).reg q = s.reg q := rfl
@[simp] theorem setSchedule_readByte (k : Nat) (l : List Move) : readByte (s.setSchedule l) k = readByte s k := readByte_congr (by simp) (by simp) k
@[simp] theorem setSchedule_fetch (l : List Move) : (s.setSchedule l).fetch = s.fetch := fetch_congr (by simp) (by simp) (by simp)

end Sys2Proof.Machine
end

