-- ==== Sys2Proof/Laws/Registers.lean ====
section
/-! SUPPORT. What the operations on registers, flags and operands do: a register written is read back, every other
register stands, and each shared operation changes its own fields alone. -/

namespace Sys2Proof.Machine

variable (s : State) (x y : RegIdx) (v : Byte)

@[simp] theorem setReg_reg_self : (s.setReg x v).reg x = v := by simp [State.reg]

theorem setReg_reg_of_ne (h : y ≠ x) : (s.setReg x v).reg y = s.reg y := by
  have hne : x.toNat ≠ y.toNat := fun e => h (BitVec.eq_of_toNat_eq e.symm)
  simp only [State.reg, setReg_V]
  exact Vector.getElem_set_ne _ _ hne

/-- putRegs writes the registers its bytes reach, and no other. -/
theorem putRegs_getElem (bytes : List Byte) (j : Nat) (V : Vector Byte 16) (k : Nat) (hk : k < 16) :
    (putRegs j bytes V)[k] = if j ≤ k then (bytes[k - j]?).getD V[k] else V[k] := by
  induction bytes generalizing j V with
  | nil => simp [putRegs]
  | cons b bs ih =>
    simp only [putRegs, ih]
    rcases Nat.lt_trichotomy j k with h | h | h
    · rw [if_pos (by omega), if_pos (by omega), Vector.getElem_setIfInBounds_ne _ (by omega),
        show k - j = k - (j + 1) + 1 by omega, List.getElem?_cons_succ]
    · subst h; rw [if_neg (by omega)]; simp
    · rw [if_neg (by omega), if_neg (by omega), Vector.getElem_setIfInBounds_ne _ (by omega)]

/-- loadRegs's spec: a register that bytes reaches takes its byte, every other stands. -/
theorem loadRegs_reg (bytes : List Byte) : (s.loadRegs bytes).reg x = (bytes[x.toNat]?).getD (s.reg x) := by
  simp only [State.reg, State.loadRegs, putRegs_getElem, Nat.zero_le, if_true, Nat.sub_zero]

/-- regsUpTo is V0..VX, in order. -/
theorem regsUpTo_length : (s.regsUpTo x).length = x.toNat + 1 := by
  have := x.isLt
  simp only [State.regsUpTo, List.length_take, Vector.length_toList]
  omega

theorem regsUpTo_getElem {j : Nat} (h : j < (s.regsUpTo x).length) :
    (s.regsUpTo x)[j] = s.reg (BitVec.ofNat 4 j) := by
  have hl := regsUpTo_length s x
  have hx := x.isLt
  have hj : j < 16 := by omega
  have : (BitVec.ofNat 4 j).toNat = j := by simp; omega
  simp [State.regsUpTo, State.reg, this]

/-! ### Flags -/

@[simp] theorem flagByte_toNat (f : Bool) : (flagByte f).toNat = f.toNat := by cases f <;> rfl

theorem carryOut_iff (a b : Byte) : carryOut a b = decide (255 < a.toNat + b.toNat) := by
  have ha := a.isLt
  have hb := b.isLt
  simp only [carryOut, BitVec.getLsbD, BitVec.toNat_add, BitVec.toNat_setWidth, Nat.testBit_eq_decide_div_mod_eq]
  congr 1
  simp only [eq_iff_iff]
  omega

theorem shiftedOutRight_iff (a : Byte) : shiftedOutRight a = decide (a.toNat % 2 = 1) := by
  simp [shiftedOutRight, BitVec.getLsbD, Nat.testBit_eq_decide_div_mod_eq]

theorem shiftedOutLeft_iff (a : Byte) : shiftedOutLeft a = decide (128 ≤ a.toNat) := by
  have ha := a.isLt
  simp only [shiftedOutLeft, BitVec.getLsbD, Nat.testBit_eq_decide_div_mod_eq]
  congr 1
  simp only [eq_iff_iff]
  omega

/-- setWithFlag's spec: VX and VF are written, in the order VF_ORDER gives, and nothing else (R160, R175). -/
theorem setWithFlag_spec (r : Byte) (f : Bool) :
    (s.setWithFlag x r f = (s.setReg x r).setReg vf (flagByte f) ∧ s.cfg.vfOrder = .flagLast) ∨
    (s.setWithFlag x r f = (s.setReg vf (flagByte f)).setReg x r ∧ s.cfg.vfOrder = .flagFirst) := by
  unfold State.setWithFlag
  split <;> simp_all

/-- setWithFlag changes the register file alone. -/
theorem setWithFlag_only (r : Byte) (f : Bool) :
    s.setWithFlag x r f = { s with V := (s.setWithFlag x r f).V } := by
  unfold State.setWithFlag
  split <;> rfl

@[simp] theorem setWithFlag_PC (r : Byte) (f : Bool) : (s.setWithFlag x r f).PC = s.PC := by
  rw [setWithFlag_only]

/-! ### PC and I -/

/-- skipIf's spec (R137): it changes PC alone, by 4 or by 2. -/
theorem skipIf_spec (c : Bool) : s.skipIf c = s.setPC (s.PC + if c then 4#16 else 2#16) := by
  cases c <;> rfl

/-- advanceIndex's spec (R305, R306): it changes I alone, and only without ALT_INDEX. -/
theorem advanceIndex_spec :
    s.advanceIndex x = s.setI (if s.cfg.altIndex then s.I else s.I + BitVec.ofNat 16 (blockLen x)) := by
  unfold State.advanceIndex
  split <;> simp_all [State.setI]

/-- A push is refused exactly when the stack holds STACK_LIMIT entries. -/
theorem stackFull_iff : s.stackFull = true ↔ s.cfg.stackLimit = some s.stack.length := by
  unfold State.stackFull
  split <;> simp_all [eq_comm]

/-- decimalDigits has three bytes. -/
@[simp] theorem decimalDigits_length : (decimalDigits v).length = 3 := rfl

end Sys2Proof.Machine
end

