-- ==== Sys2Proof/Laws/Screen.lean ====
section
/-! SUPPORT. The raster engine, pixel by pixel (42_display.md R202 to R207): what a flip does, which pixels a sprite's
targets are, and what a draw does to one pixel. -/

namespace Sys2Proof.Machine

variable (g : Grid) (p q : Fin 64 × Fin 32)

@[simp] theorem Grid.at_flip_self : (g.flip p).at p = !g.at p := by simp [Grid.flip, Grid.at]

/-- A flip leaves every other pixel. -/
theorem Grid.at_flip_of_ne (h : q ≠ p) : (g.flip p).at q = g.at q := by
  obtain ⟨px, py⟩ := p
  obtain ⟨qx, qy⟩ := q
  simp only [Grid.flip, Grid.at]
  by_cases hy : qy = py
  · subst hy
    have hx : px.val ≠ qx.val := fun e => h (by rw [Fin.ext e])
    simp [Vector.getElem_set_ne _ _ hx]
  · have hy' : py.val ≠ qy.val := fun e => hy (Fin.ext e.symm)
    simp [Vector.getElem_set_ne _ _ hy']

@[simp] theorem Grid.at_blank : Grid.blank.at p = false := by simp [Grid.blank, Grid.at]

/-- Two grids with the same pixels are equal. -/
theorem Grid.ext_at {g g' : Grid} (h : ∀ p, g.at p = g'.at p) : g = g' := by
  ext y hy x hx
  exact h (⟨x, hx⟩, ⟨y, hy⟩)

/-- Flipping pixels, none twice: the listed ones change, the others stand. -/
theorem flipAll_at {ps : List (Fin 64 × Fin 32)} (hn : ps.Nodup) (c : Bool) :
    (flipAll ps (g, c)).1.at q = (g.at q ^^ decide (q ∈ ps)) := by
  induction ps generalizing g c with
  | nil => simp [flipAll]
  | cons p ps ih =>
    rw [List.nodup_cons] at hn
    simp only [flipAll, ih _ hn.2]
    by_cases hq : q = p
    · subst hq; simp [hn.1]
    · simp [Grid.at_flip_of_ne _ _ _ hq, hq]

/-- Flipping pixels, none twice: a collision is a listed pixel that was on at the start (R207). -/
theorem flipAll_collision {ps : List (Fin 64 × Fin 32)} (hn : ps.Nodup) (c : Bool) :
    (flipAll ps (g, c)).2 = true ↔ c = true ∨ ∃ p ∈ ps, g.at p = true := by
  induction ps generalizing g c with
  | nil => simp [flipAll]
  | cons p ps ih =>
    rw [List.nodup_cons] at hn
    simp only [flipAll, ih _ hn.2, Bool.or_eq_true, List.mem_cons, exists_eq_or_imp, or_assoc]
    have : (∃ q ∈ ps, (g.flip p).at q = true) ↔ ∃ q ∈ ps, g.at q = true := by
      refine exists_congr fun q => and_congr_right fun hq => ?_
      rw [Grid.at_flip_of_ne _ _ _ fun e : q = p => hn.1 (e ▸ hq)]
    rw [this]

/-- A resolved position is the position itself inside the axis, or its remainder when it wraps. -/
theorem resolveEdge_eq_some {n : Nat} [NeZero n] {wrap : Bool} {i : Nat} {j : Fin n} :
    resolveEdge n wrap i = some j ↔ MeetsEdge n wrap i j.val := by
  unfold resolveEdge MeetsEdge
  split
  · next h =>
    simp only [Option.some.injEq, Nat.mod_eq_of_lt h]
    constructor
    · rintro rfl; exact .inl rfl
    · rintro (h | ⟨_, h⟩) <;> exact Fin.ext h
  · next h =>
    have hj := j.isLt
    split
    · next hw =>
      simp only [Option.some.injEq, hw, true_and]
      constructor
      · rintro rfl; exact .inr rfl
      · rintro (h' | h')
        · omega
        · exact Fin.ext h'
    · next hw => simp only [hw]; constructor <;> intro h' <;> simp_all <;> omega

/-- The pixels of one sprite row. -/
theorem mem_rowTargets {wrap : Bool} {x : Nat} {py : Fin 32} {row : Byte} :
    q ∈ rowTargets wrap x py row ↔
      q.2 = py ∧ ∃ c, c < 8 ∧ row.getLsbD (7 - c) = true ∧ MeetsEdge 64 wrap (x + c) q.1.val := by
  obtain ⟨qx, qy⟩ := q
  simp only [rowTargets, List.mem_filterMap, List.mem_range]
  constructor
  · rintro ⟨c, hc, h⟩
    split at h
    · next hb =>
      obtain ⟨px, hp, he⟩ := Option.map_eq_some_iff.mp h
      simp only [Prod.mk.injEq] at he
      obtain ⟨rfl, rfl⟩ := he
      exact ⟨rfl, c, hc, hb, resolveEdge_eq_some.mp hp⟩
    · simp at h
  · rintro ⟨rfl, c, hc, hb, he⟩
    exact ⟨c, hc, by simp [hb, resolveEdge_eq_some.mpr he]⟩

/-- The pixels of a sprite are the pixels it covers. -/
theorem mem_spriteTargets {wrap : Bool} {x y : Nat} {rows : List Byte} :
    q ∈ spriteTargets wrap x y rows ↔ Covers wrap rows x y q := by
  induction rows generalizing y with
  | nil => simp [spriteTargets, Covers]
  | cons row rows ih =>
    simp only [spriteTargets, List.mem_append, ih]
    constructor
    · rintro (h | ⟨r, c, row', hc, hr, hb, hx, hy⟩)
      · split at h
        · next py hp =>
          obtain ⟨rfl, c, hc, hb, hx⟩ := (mem_rowTargets q).mp h
          exact ⟨0, c, row, hc, rfl, hb, hx, by simpa using resolveEdge_eq_some.mp hp⟩
        · simp at h
      · exact ⟨r + 1, c, row', hc, by simpa using hr, hb, hx, by rw [show y + (r + 1) = y + 1 + r by omega]; exact hy⟩
    · rintro ⟨r, c, row', hc, hr, hb, hx, hy⟩
      cases r with
      | zero =>
        simp only [List.getElem?_cons_zero, Option.some.injEq] at hr
        subst hr
        left
        rw [resolveEdge_eq_some.mpr (by simpa using hy)]
        exact (mem_rowTargets q).mpr ⟨rfl, c, hc, hb, hx⟩
      | succ r =>
        exact .inr ⟨r, c, row', hc, by simpa using hr, hb, hx, by rw [show y + 1 + r = y + (r + 1) by omega]; exact hy⟩

/-- Positions less than an axis apart resolve to different coordinates. -/
theorem MeetsEdge.inj {n : Nat} {wrap : Bool} {i j k : Nat} (hi : MeetsEdge n wrap i k) (hj : MeetsEdge n wrap j k)
    (hk : k < n) (hd : i < j) : n ≤ j - i := by
  unfold MeetsEdge at hi hj
  have hmod : i % n = k ∧ j % n = k := by
    constructor
    · rcases hi with rfl | ⟨_, h⟩
      · exact Nat.mod_eq_of_lt hk
      · exact h
    · rcases hj with rfl | ⟨_, h⟩
      · exact Nat.mod_eq_of_lt hk
      · exact h
  have hdvd : n ∣ j - i := Nat.dvd_of_mod_eq_zero (Nat.sub_mod_eq_zero_of_mod_eq (by omega))
  exact Nat.le_of_dvd (by omega) hdvd

/-- No sprite row flips a pixel twice (R207): its 8 columns resolve apart on a 64-wide axis. -/
theorem rowTargets_nodup {wrap : Bool} {x : Nat} {py : Fin 32} {row : Byte} : (rowTargets wrap x py row).Nodup := by
  unfold rowTargets
  have hdistinct : ∀ c d, c < 8 → d < 8 → ∀ p,
      (if row.getLsbD (7 - c) then (resolveEdge 64 wrap (x + c)).map (·, py) else none) = some p →
      (if row.getLsbD (7 - d) then (resolveEdge 64 wrap (x + d)).map (·, py) else none) = some p → c = d := by
    intro c d hc hd p h1 h2
    split at h1 <;> split at h2 <;> simp only [Option.map_eq_some_iff, reduceCtorEq] at h1 h2
    obtain ⟨i, hi, rfl⟩ := h1
    obtain ⟨j, hj, he⟩ := h2
    simp only [Prod.mk.injEq, and_true] at he
    subst he
    have hi := resolveEdge_eq_some.mp hi
    have hj := resolveEdge_eq_some.mp hj
    rcases Nat.lt_trichotomy c d with h | h | h
    · have := MeetsEdge.inj hi hj j.isLt (by omega); omega
    · exact h
    · have := MeetsEdge.inj hj hi j.isLt (by omega); omega
  rw [List.Nodup, List.pairwise_filterMap]
  refine List.Pairwise.imp_of_mem ?_ List.nodup_range
  intro c d hc hd hne p hp p' hp' he
  subst he
  exact hne (hdistinct c d (List.mem_range.mp hc) (List.mem_range.mp hd) p hp hp')

/-- No sprite of up to 32 rows flips a pixel twice (R207). -/
theorem spriteTargets_nodup {wrap : Bool} {x y : Nat} {rows : List Byte} (h : rows.length ≤ 32) :
    (spriteTargets wrap x y rows).Nodup := by
  induction rows generalizing y with
  | nil => simp [spriteTargets]
  | cons row rows ih =>
    simp only [List.length_cons] at h
    simp only [spriteTargets]
    rw [List.nodup_append]
    refine ⟨?_, ih (by omega), ?_⟩
    · split
      · exact rowTargets_nodup
      · simp
    · intro a ha b hb he
      subst he
      split at ha
      · next py hp =>
        obtain ⟨rfl, _⟩ := (mem_rowTargets a).mp ha
        obtain ⟨r, _, _, _, hr, _, _, hy⟩ := (mem_spriteTargets a).mp hb
        have hr' : r < rows.length := (List.getElem?_eq_some_iff.mp hr).1
        have := MeetsEdge.inj (resolveEdge_eq_some.mp hp) hy a.2.isLt (by omega)
        omega
      · simp at ha

/-- clearScreen and drawSprite write the grid, the modified flag and the diagnostic port, and nothing else. -/
theorem drawSprite_only (s : State) (rows : List Byte) (x y : Byte) :
    (s.drawSprite rows x y).1 =
      { s with
        pixel := (s.drawSprite rows x y).1.pixel
        modified := (s.drawSprite rows x y).1.modified
        diagnostics := (s.drawSprite rows x y).1.diagnostics } := by
  unfold State.drawSprite
  split <;> rfl

/-- drawSprite's spec (R202, R203, R208): rejected, it emits a record and reports no collision; accepted, it draws and
sets the modified flag. -/
theorem drawSprite_spec (s : State) (rows : List Byte) (x y : Byte) :
    (startOutside x y = true ∧ s.cfg.screenOob = .reject ∧
      s.drawSprite rows x y = (s.logDiag (.drawRejected x y), false)) ∨
    ((startOutside x y = false ∨ s.cfg.screenOob = .wrap) ∧
      s.drawSprite rows x y =
        ({ s with pixel := (drawOn s.cfg.screenWrap rows x y s.pixel).1, modified := true },
          (drawOn s.cfg.screenWrap rows x y s.pixel).2)) := by
  unfold State.drawSprite
  cases h : startOutside x y <;> cases h' : s.cfg.screenOob <;> simp

end Sys2Proof.Machine
end

