-- ==== Sys2Proof/Laws/Memory.lean ====
section
/-! SUPPORT. Memory as a list in canonical form (20_memory.md R70 to R73): a write gives back what was written, leaves
every other byte, and keeps the form; memories of one form that read alike are equal. -/

namespace Sys2Proof.Machine

variable {cfg : Config} {m : List Host.Cell} {a k : Nat} {b : Byte}

/-- The form, as a statement. -/
theorem Memory.wf_iff : Memory.wf cfg m = true ↔
    m.Pairwise (fun p q => p.1 < q.1) ∧ ∀ c ∈ m, c.1 < memSize ∧ c.2 ≠ initialByte cfg c.1 := by
  simp [Memory.wf, List.all_eq_true]

theorem Memory.wf_nil : Memory.wf cfg [] = true := by simp [Memory.wf]

/-- The reset contents hold the font at FONT_BASE (R61, R82). -/
theorem initialByte_font {j : Nat} (h : j < 80) : initialByte cfg (cfg.fontBase.toNat + j) = cfg.fontTable[j] := by
  unfold initialByte
  rw [if_pos (by omega), Nat.add_sub_cancel_left]
  simp [h]

/-- The reset contents are 0 outside the font (R61). -/
theorem initialByte_outside (h : a < cfg.fontBase.toNat ∨ cfg.fontBase.toNat + 80 ≤ a) : initialByte cfg a = 0#8 := by
  unfold initialByte
  split
  · rw [Vector.getElem?_eq_none (by omega)]; rfl
  · rfl

/-- A memory that lists nothing reads the reset contents. -/
theorem readByte_of_mem_nil {s : State} (hm : s.mem = []) (ha : a < memSize) :
    readByte s a = some (initialByte s.cfg a) := by
  simp [readByte, ha, Memory.byteAt, hm, Memory.lookup]

/-- An address below every listed one is not listed. -/
theorem Memory.lookup_eq_none (h : ∀ c ∈ m, a < c.1) : Memory.lookup a m = none := by
  induction m with
  | nil => rfl
  | cons c rest ih =>
    have hc := h c (by simp)
    simp only [Memory.lookup, if_neg (Nat.ne_of_gt hc)]
    exact ih fun d hd => h d (by simp [hd])

/-- A write leaves every other byte. -/
theorem Memory.byteAt_put_of_ne (h : k ≠ a) :
    Memory.byteAt cfg (Memory.put cfg a b m) k = Memory.byteAt cfg m k := by
  simp only [Memory.byteAt]
  congr 1
  induction m with
  | nil => simp only [Memory.put]; split <;> simp [Memory.lookup, Ne.symm h]
  | cons c rest ih =>
    simp only [Memory.put]
    split
    · split <;> simp [Memory.lookup, Ne.symm h]
    · split
      · next hk => subst hk; split <;> simp [Memory.lookup, Ne.symm h]
      · simp only [Memory.lookup, ih]

/-- A write gives back what was written. -/
theorem Memory.byteAt_put_self (hs : m.Pairwise (fun p q => p.1 < q.1)) :
    Memory.byteAt cfg (Memory.put cfg a b m) a = b := by
  simp only [Memory.byteAt]
  induction m with
  | nil => simp only [Memory.put]; split <;> simp_all [Memory.lookup]
  | cons c rest ih =>
    rw [List.pairwise_cons] at hs
    simp only [Memory.put]
    split
    · next hlt =>
      split
      · rw [Memory.lookup_eq_none]
        · simp_all
        · intro d hd
          rcases List.mem_cons.mp hd with rfl | hd
          · exact hlt
          · exact Nat.lt_trans hlt (hs.1 d hd)
      · simp [Memory.lookup]
    · split
      · next hk =>
        split
        · rw [Memory.lookup_eq_none fun d hd => hk ▸ hs.1 d hd]; simp_all
        · simp [Memory.lookup]
      · next hk => simp only [Memory.lookup, if_neg (Ne.symm hk), ih hs.2]

/-- A listed entry after a write is the written one or was listed before. -/
theorem Memory.mem_put {c : Host.Cell} (h : c ∈ Memory.put cfg a b m) :
    (c = (a, b) ∧ b ≠ initialByte cfg a) ∨ c ∈ m := by
  induction m with
  | nil => simp only [Memory.put] at h; split at h <;> simp_all
  | cons d rest ih =>
    simp only [Memory.put] at h
    split at h
    · split at h <;> simp_all
    · split at h
      · split at h <;> simp_all
        rcases h with h | h <;> simp [h]
      · rcases List.mem_cons.mp h with h | h
        · simp_all
        · rcases ih h with h | h <;> simp [h]

/-- A write inside memory keeps the canonical form. -/
theorem Memory.wf_put (h : Memory.wf cfg m = true) (ha : a < memSize) : Memory.wf cfg (Memory.put cfg a b m) = true := by
  rw [Memory.wf_iff] at h ⊢
  refine ⟨?_, fun c hc => ?_⟩
  · have hs := h.1
    clear h
    induction m with
    | nil => simp only [Memory.put]; split <;> simp
    | cons d rest ih =>
      rw [List.pairwise_cons] at hs
      simp only [Memory.put]
      split
      · next hlt =>
        have hr : ∀ q ∈ rest, a < q.1 := fun q hq => Nat.lt_trans hlt (hs.1 q hq)
        split
        · exact List.pairwise_cons.mpr hs
        · refine List.pairwise_cons.mpr ⟨fun q hq => ?_, List.pairwise_cons.mpr hs⟩
          rcases List.mem_cons.mp hq with rfl | hq
          · exact hlt
          · exact hr q hq
      · split
        · next hk =>
          split
          · exact hs.2
          · exact List.pairwise_cons.mpr ⟨fun q hq => hk ▸ hs.1 q hq, hs.2⟩
        · next hge hk =>
          refine List.pairwise_cons.mpr ⟨fun q hq => ?_, ih hs.2⟩
          rcases Memory.mem_put hq with ⟨rfl, _⟩ | hq
          · show d.1 < a; omega
          · exact hs.1 q hq
  · rcases Memory.mem_put hc with ⟨rfl, hb⟩ | hc
    · exact ⟨ha, hb⟩
    · exact h.2 c hc

/-- A run of writes inside memory keeps the canonical form. -/
theorem Memory.wf_putRange {bytes : List Byte} (h : Memory.wf cfg m = true) (ha : a + bytes.length ≤ memSize) :
    Memory.wf cfg (Memory.putRange cfg a bytes m) = true := by
  induction bytes generalizing a m with
  | nil => exact h
  | cons b bs ih =>
    simp only [List.length_cons] at ha
    exact ih (Memory.wf_put h (by omega)) (by omega)

/-- A run of writes leaves every byte outside it. -/
theorem Memory.byteAt_putRange_outside {bytes : List Byte} (h : k < a ∨ a + bytes.length ≤ k) :
    Memory.byteAt cfg (Memory.putRange cfg a bytes m) k = Memory.byteAt cfg m k := by
  induction bytes generalizing a m with
  | nil => rfl
  | cons b bs ih =>
    simp only [List.length_cons] at h
    simp only [Memory.putRange]
    rw [ih (by omega), Memory.byteAt_put_of_ne (by omega)]

/-- A run of writes gives back the bytes written, in order. -/
theorem Memory.byteAt_putRange_inside {bytes : List Byte} (h : Memory.wf cfg m = true)
    (ha : a + bytes.length ≤ memSize) {j : Nat} (hj : j < bytes.length) :
    Memory.byteAt cfg (Memory.putRange cfg a bytes m) (a + j) = bytes[j] := by
  induction bytes generalizing a m j with
  | nil => simp at hj
  | cons b bs ih =>
    simp only [List.length_cons] at ha hj
    simp only [Memory.putRange]
    cases j with
    | zero =>
      rw [Memory.byteAt_putRange_outside (by omega)]
      exact Memory.byteAt_put_self (Memory.wf_iff.mp h).1
    | succ j =>
      have := ih (Memory.wf_put (b := b) h (by omega : a < memSize)) (a := a + 1) (by omega) (j := j) (by omega)
      rw [show a + (j + 1) = a + 1 + j by omega]
      exact this

/-- An unlisted address of a canonical memory reads the reset contents and no other does. -/
theorem Memory.lookup_eq_none_iff (h : Memory.wf cfg m = true) :
    Memory.lookup a m = none ↔ Memory.byteAt cfg m a = initialByte cfg a := by
  rw [Memory.wf_iff] at h
  have h2 := h.2
  clear h
  simp only [Memory.byteAt]
  induction m with
  | nil => simp [Memory.lookup]
  | cons c rest ih =>
    simp only [Memory.lookup]
    split
    · next hk => subst hk; simpa using (h2 c (by simp)).2
    · exact ih fun d hd => h2 d (by simp [hd])

/-- memRead's spec (R72): in range it gives the n bytes in order, out of range nothing. -/
theorem memRead_eq_some {s : State} {addr n : Nat} (h : addr + n ≤ memSize) :
    memRead s addr n = some ((List.range n).map fun j => Memory.byteAt s.cfg s.mem (addr + j)) := by
  simp [memRead, h]

theorem memRead_eq_none {s : State} {addr n : Nat} (h : memSize < addr + n) : memRead s addr n = none := by
  simp [memRead, Nat.not_le.mpr h]

/-- A read that succeeds was in range, and each byte is the byte at its address. -/
theorem memRead_spec {s : State} {addr n : Nat} {bytes : List Byte} (h : memRead s addr n = some bytes) :
    addr + n ≤ memSize ∧ bytes.length = n ∧
      ∀ j (hj : j < bytes.length), bytes[j] = Memory.byteAt s.cfg s.mem (addr + j) := by
  simp only [memRead] at h
  split at h
  · simp only [Option.some.injEq] at h
    subst h
    exact ⟨by assumption, by simp, by simp⟩
  · simp at h

/-- memWrite's spec (R73): it writes all of the bytes, in range, or answers none; it touches memory alone. -/
theorem memWrite_spec {s t : State} {addr : Nat} {bytes : List Byte} (h : memWrite s addr bytes = some t) :
    addr + bytes.length ≤ memSize ∧ t = { s with mem := Memory.putRange s.cfg addr bytes s.mem } := by
  simp only [memWrite] at h
  split at h
  · exact ⟨by assumption, by simpa using h.symm⟩
  · simp at h

theorem memWrite_eq_some {s : State} {addr : Nat} {bytes : List Byte} (h : addr + bytes.length ≤ memSize) :
    memWrite s addr bytes = some { s with mem := Memory.putRange s.cfg addr bytes s.mem } := by
  simp [memWrite, h]

theorem memWrite_eq_none {s : State} {addr : Nat} {bytes : List Byte} (h : memSize < addr + bytes.length) :
    memWrite s addr bytes = none := by
  simp [memWrite, Nat.not_le.mpr h]

/-- fetch's spec (R131, R132): in range the two bytes at PC, high byte first. -/
theorem fetch_eq_some {s : State} (h : s.PC.toNat + 2 ≤ memSize) :
    s.fetch = some (composeWord (Memory.byteAt s.cfg s.mem s.PC.toNat) (Memory.byteAt s.cfg s.mem (s.PC.toNat + 1))) := by
  simp [State.fetch, memRead_eq_some h, List.range_succ]

theorem fetch_eq_none {s : State} (h : memSize < s.PC.toNat + 2) : s.fetch = none := by
  simp [State.fetch, memRead_eq_none h]

/-- A fetch that succeeds was in range. -/
theorem fetch_in_range {s : State} {op : Word} (h : s.fetch = some op) : s.PC.toNat + 2 ≤ memSize := by
  rcases Nat.lt_or_ge memSize (s.PC.toNat + 2) with hlt | hge
  · rw [fetch_eq_none hlt] at h; simp at h
  · exact hge

end Sys2Proof.Machine
end

