-- ==== Sys2Proof/Laws/Timers.lean ====
section
/-! SUPPORT. A timer's value as a number, and what clock time does to it (44_timers.md R271 to R275). -/

namespace Sys2Proof.Machine

variable (d t : Nat)

/-- A timer's value, with no byte in the way: the rounded number of sixtieths left, held to 0..255 (R271). -/
theorem timerValue_toNat :
    (timerValue d t).toNat = (min 255 (max 0 (roundHalfUp (((d : Int) - t) * 60) 1000000000))).toNat := by
  unfold timerValue
  rw [BitVec.toNat_ofNat]
  generalize roundHalfUp (((d : Int) - t) * 60) 1000000000 = q
  omega

/-- At its deadline and after it a timer is 0 (R275). -/
theorem timerValue_eq_zero (h : d ≤ t) : timerValue d t = 0#8 := by
  apply BitVec.eq_of_toNat_eq
  rw [timerValue_toNat, roundHalfUp, show (0#8).toNat = 0 from rfl]
  omega

/-- A deadline lies at or after the clock reading it is set at, and at most 255 sixtieths of a second after it. -/
theorem deadlineAfter_bounds (n : Byte) : t ≤ deadlineAfter t n ∧ deadlineAfter t n ≤ t + 4250000000 := by
  have := n.isLt
  unfold deadlineAfter
  omega

/-- The sound output is active exactly before the sound deadline (R279). -/
@[simp] theorem soundActive_iff (s : State) : s.soundActive t = true ↔ t < s.soundDeadline := decide_eq_true_iff

end Sys2Proof.Machine
end

