-- ==== Sys2Proof/Laws/Step.lean ====
section
/-! SUPPORT. What the operations of the sequencer, of the wait and of the outside agents can do (40_execution.md,
43_keyboard.md, 10_state.md R63): one lemma says all of it, and later proofs cite it. -/

namespace Sys2Proof.Machine

variable (s : State)

/-! ### Time -/

theorem clock_le_now : s.clock ≤ s.now := Nat.le_add_right _ _

/-- The throttle changes nothing when it does not run (R143). -/
theorem throttle_eq_self {op : Word} {forceSync : Bool} (h : s.throttleRuns op forceSync = false) :
    s.throttle op forceSync = s := by
  simp only [State.throttle, h, Bool.false_eq_true, if_false]

/-- The clock when the throttle is done: no earlier than its reading, and less than 1 ms of the expected time is left
(R143, R144). -/
theorem throttleDone_spec (t : Nat) :
    t ≤ s.throttleDone t ∧
      (s.cfg.frequency ≠ 0 → s.aheadScaled (s.throttleDone t) < 1000000 * (s.cfg.frequency : Int)) := by
  unfold State.throttleDone
  split
  · next h => exact ⟨Nat.le_refl _, fun _ => h⟩
  · next h =>
    refine ⟨by omega, fun hf => ?_⟩
    unfold State.aheadScaled at *
    generalize hF : (s.cfg.frequency : Int) = F at *
    have hpos : 0 < F := by omega
    generalize hA : 1000000000 * (s.cycles : Int) - ((t : Int) - s.startTime) * F = A at *
    have hq : A ≤ (A + F - 1) / F * F := by
      have h1 := Int.emod_add_mul_ediv (A + F - 1) F
      have h2 := Int.emod_lt_of_pos (A + F - 1) hpos
      rw [Int.mul_comm] at h1
      omega
    have hnn : 0 ≤ (A + F - 1) / F := Int.ediv_nonneg (by omega) (by omega)
    generalize (A + F - 1) / F = q at *
    have hfe : 0 ≤ (Config.freeElapsed (s.clockReads + 1) : Int) * F := Int.mul_nonneg (by omega) (by omega)
    have hcast : ((t + q.toNat + Config.freeElapsed (s.clockReads + 1) : Nat) : Int) =
        t + q + Config.freeElapsed (s.clockReads + 1) := by omega
    rw [hcast, show (t : Int) + q + Config.freeElapsed (s.clockReads + 1) - s.startTime =
      ((t : Int) - s.startTime) + q + Config.freeElapsed (s.clockReads + 1) by omega, Int.add_mul, Int.add_mul]
    omega

/-- The throttle never turns the clock back. -/
theorem clock_le_throttle (op : Word) (forceSync : Bool) : s.clock ≤ (s.throttle op forceSync).clock := by
  simp only [State.throttle]
  split
  · exact Nat.le_trans (clock_le_now s) (throttleDone_spec s s.now).1
  · exact Nat.le_refl _

/-! ### The keypad (R241 to R250) -/

theorem isPressed_iff (k : Nat) : s.isPressed k = true ↔ KeyDown s k := by
  unfold State.isPressed KeyDown
  split <;> simp [*]

/-- setKey: nothing, for a key outside 0 to 15 or a repeat, or one key and the pending slot (R242, R243). -/
theorem setKey_cases (k : Nat) (pressed : Bool) :
    (s.setKey k pressed = s ∧ ∀ h : k < 16, s.key[k] = pressed) ∨
    ∃ h : k < 16, s.key[k] ≠ pressed ∧
      s.setKey k pressed = { s with key := s.key.set k pressed, pending := some ⟨⟨k, h⟩, pressed⟩ } := by
  unfold State.setKey
  split
  · next h =>
    split
    · next he => exact .inl ⟨rfl, fun _ => he⟩
    · next he => exact .inr ⟨h, he, rfl⟩
  · next h => exact .inl ⟨rfl, fun h' => absurd h' h⟩

/-- waitDeadline: no deadline and no clock read, or WAIT_TIMEOUT milliseconds after a clock read (R249). -/
theorem waitDeadline_cases :
    (s.cfg.waitTimeout = none ∧ s.waitDeadline = (none, s)) ∨
    ∃ ms, s.cfg.waitTimeout = some ms ∧ s.waitDeadline = (some (s.now + 1000000 * ms), s.clockRead) := by
  unfold State.waitDeadline
  split
  · next h => exact .inl ⟨h, rfl⟩
  · next ms h => exact .inr ⟨ms, h, rfl⟩

/-- finishWait with a key: VX, PC, the run state and the count (R249, R140). -/
theorem finishWait_some (x : RegIdx) (k : Fin 16) :
    s.finishWait x (some k) =
      { s with
        V := s.V.set x.toNat (BitVec.ofNat 8 k.val) x.isLt
        PC := s.PC + 2#16
        run := .running
        cycles := s.cycles + 1 } := rfl

/-- finishWait on a timeout: the same with key 0, and a record (R250). -/
theorem finishWait_none (x : RegIdx) :
    s.finishWait x none =
      { s with
        V := s.V.set x.toNat 0#8 x.isLt
        PC := s.PC + 2#16
        run := .running
        cycles := s.cycles + 1
        diagnostics := .invalidWaitKey (-1) :: s.diagnostics } := rfl

/-- One check of the slot, all its outcomes (R244, R249, R251). -/
theorem resumeWait_cases (x : RegIdx) (tEnd : Option Nat) :
    (∃ e, s.pending = some e ∧ (s.cfg.waitReleaseOnly = true → e.pressed = false) ∧
      s.resumeWait x tEnd = s.clearPending.finishWait x (some e.key)) ∨
    (∃ e, s.pending = some e ∧ s.cfg.waitReleaseOnly = true ∧ e.pressed = true ∧
      s.resumeWait x tEnd = s.clearPending) ∨
    (s.pending = none ∧ tEnd = none ∧ s.resumeWait x tEnd = s) ∨
    (∃ T, s.pending = none ∧ tEnd = some T ∧ s.now < T ∧ s.resumeWait x tEnd = s.clockRead) ∨
    (∃ T, s.pending = none ∧ tEnd = some T ∧ T ≤ s.now ∧
      s.resumeWait x tEnd = s.clockRead.finishWait x none) := by
  unfold State.resumeWait
  cases hp : s.pending with
  | some e =>
    cases hr : s.cfg.waitReleaseOnly <;> cases he : e.pressed <;> simp [he]
  | none =>
    cases tEnd with
    | none => simp
    | some T =>
      by_cases h : T ≤ s.now
      · simp [h]
      · simp [h, Nat.not_le.mp h]

/-! ### The core's step -/

/-- countCompleted: a next state that is RUNNING counts, and nothing else changes (R130, R140). -/
theorem countCompleted_eq_next {r : Result} {u : State} (h : countCompleted r = .next u) :
    ∃ t, r = .next t ∧ ((t.run = .running ∧ u = t.countCycle) ∨ (t.run ≠ .running ∧ u = t)) := by
  cases r with
  | next t =>
    refine ⟨t, rfl, ?_⟩
    simp only [countCompleted] at h
    split at h <;> injection h with h <;> simp_all
  | fault f => simp [countCompleted] at h
  | refused f => simp [countCompleted] at h

/-- runWord: a fatal error for an illegal word, else the instruction and its count (R130, R134). -/
theorem runWord_cases {op : Word} {u : State} (h : s.runWord op = .next u) :
    (∃ e, decodeWord op = .error e ∧ u = s.raiseFatal (.illegalOpcode op s.PC s.cycles)) ∨
    ∃ i t, decodeWord op = .ok i ∧ exec i s = .next t ∧
      ((t.run = .running ∧ u = t.countCycle) ∨ (t.run ≠ .running ∧ u = t)) := by
  unfold State.runWord at h
  split at h
  · next e he => injection h with h; exact .inl ⟨e, he, h.symm⟩
  · next i hi =>
    obtain ⟨t, ht, hu⟩ := countCompleted_eq_next h
    exact .inr ⟨i, t, hi, ht, hu⟩

/-- coreStep, all its next states: a fetch out of range, a word run after the throttle, or one check of a wait. -/
theorem coreStep_cases {forceSync : Bool} {u : State} (h : s.coreStep forceSync = .next u) :
    (s.run = .running ∧ s.fetch = none ∧ u = s.raiseFatal (.fetchOutOfRange s.PC s.cycles)) ∨
    (∃ op, s.run = .running ∧ s.fetch = some op ∧ (s.throttle op forceSync).runWord op = .next u) ∨
    (∃ x tEnd, s.run = .waitingKey x tEnd ∧ u = s.resumeWait x tEnd) := by
  unfold State.coreStep at h
  split at h
  · simp at h
  · next x tEnd hr => injection h with h; exact .inr (.inr ⟨x, tEnd, hr, h.symm⟩)
  · next hr =>
    split at h
    · next hf => injection h with h; exact .inl ⟨hr, hf, h.symm⟩
    · next op hf => exact .inr (.inl ⟨op, hr, hf, h⟩)

/-- A RUNNING core whose fetch gives a word throttles and runs it (R130). -/
theorem coreStep_of_fetch {op : Word} {forceSync : Bool} (hr : s.run = .running) (hf : s.fetch = some op) :
    s.coreStep forceSync = (s.throttle op forceSync).runWord op := by
  simp only [State.coreStep, hr, hf]

/-! ### The moves of the outside agents -/

/-- loadProgram: all of the bytes, or a record (R54, R73). -/
theorem loadProgram_cases (bytes : List Byte) :
    (bytes.length ≤ 3584 ∧
      s.loadProgram bytes = { s with mem := Memory.putRange s.cfg 0x200 bytes s.mem }) ∨
    (3584 < bytes.length ∧ s.loadProgram bytes = s.logDiag (.programTooLong bytes.length)) := by
  have hb : programBase.toNat = 0x200 := rfl
  unfold State.loadProgram
  rcases Nat.lt_or_ge 3584 bytes.length with h | h
  · rw [memWrite_eq_none (by rw [hb, memSize]; omega)]
    exact .inr ⟨h, rfl⟩
  · rw [memWrite_eq_some (by rw [hb, memSize]; omega), hb]
    exact .inl ⟨h, rfl⟩

/-- What a move that is not the core's does. -/
theorem move_cases {m : Move} {u : State} (h : s.move m = .next u) :
    (∃ forceSync, m = .core forceSync ∧ s.coreStep forceSync = .next u) ∨
    (∃ k pressed, m = .setKey k pressed ∧ u = s.setKey k pressed) ∨
    (∃ consume, m = .snapshot consume ∧ u = { s with modified := u.modified } ∧
      u.modified = (s.modified && !consume)) ∨
    (∃ ns, m = .advanceClock ns ∧ u = s.advanceClock ns) ∨
    (∃ bytes, m = .load bytes ∧ s.cycles = 0 ∧ s.run = .running ∧ u = s.loadProgram bytes) := by
  cases m with
  | core f => exact .inl ⟨f, rfl, h⟩
  | setKey k p => injection h with h; exact .inr (.inl ⟨k, p, rfl, h.symm⟩)
  | snapshot c =>
    injection h with h
    subst h
    refine .inr (.inr (.inl ⟨c, rfl, ?_⟩))
    cases c <;> simp [State.snapshot]
  | advanceClock n => injection h with h; exact .inr (.inr (.inr (.inl ⟨n, rfl, h.symm⟩)))
  | load bytes =>
    simp only [State.move] at h
    split at h
    · next hb =>
      injection h with h
      simp only [State.beforeFirstStep, Bool.and_eq_true, decide_eq_true_eq] at hb
      exact .inr (.inr (.inr (.inr ⟨bytes, rfl, hb.1, hb.2, h.symm⟩)))
    · simp at h
  | cancel => simp [State.move] at h

/-- A step that gives a next state is a move of a machine that is not halted: the core's when none is listed, else the
first listed one, which is taken off the list. -/
theorem step_cases {u : State} (h : step s = .next u) :
    (∀ status, s.run ≠ .halted status) ∧
      ((s.schedule = [] ∧ s.coreStep false = .next u) ∨
        ∃ m rest, s.schedule = m :: rest ∧ (s.setSchedule rest).move m = .next u) := by
  unfold step at h
  split at h
  · simp at h
  all_goals
    next hr =>
    refine ⟨fun status => by rw [hr]; simp, ?_⟩
    split at h
    · next hs => exact .inl ⟨hs, h⟩
    · next m rest hs => exact .inr ⟨m, rest, hs, h⟩

/-- When the core moves next, the step is the core's step. -/
theorem step_of_coreMovesNext {s s' : State} {forceSync : Bool} (h : CoreMovesNext forceSync s s')
    (hr : ∀ status, s.run ≠ .halted status) : step s = s'.coreStep forceSync := by
  unfold step
  rcases h with ⟨hs, rfl, rfl⟩ | ⟨rest, hs, rfl⟩
  · cases hrun : s'.run <;> simp_all
  · cases hrun : s.run <;> simp_all [State.move, State.setSchedule]

/-- A run of k + 1 steps is a step and then a run of k. -/
theorem run_succ_of_step {s t : State} (k : Nat) (h : step s = .next t) :
    Sys2Proof.core.run (k + 1) s = Sys2Proof.core.run k t := by
  have hstep : Sys2Proof.core.step s = .next t := h
  exact (Host.Core.run.eq_2 Sys2Proof.core s k).trans (by rw [hstep])

/-- What one move of an infinite run keeps, every later state of the run has. -/
theorem InfiniteRun.keeps {moves : Nat → Move} {r : Nat → State} (h : InfiniteRun moves r) {P : State → Prop}
    (hP : ∀ s t m, P s → step (s.setSchedule [m]) = .next t → P t) {n k : Nat} (hn : P (r n)) (hk : n ≤ k) :
    P (r k) := by
  induction hk with
  | refl => exact hn
  | step _ ih => exact hP _ _ _ ih (h _)

/-- A step of the core before a fair run makes a fair run. -/
theorem FairRun.cons {moves : Nat → Move} {r : Nat → State} (h : FairRun moves r) {s : State} {forceSync : Bool}
    (hs : step (s.setSchedule [.core forceSync]) = .next (r 0)) :
    FairRun (fun n => match n with | 0 => .core forceSync | k + 1 => moves k)
      (fun n => match n with | 0 => s | k + 1 => r k) where
  steps n := match n with
    | 0 => hs
    | k + 1 => h.steps k
  clock T := (h.clock T).elim fun n hn => ⟨n + 1, hn⟩
  driver n hr := match n with
    | 0 => ⟨0, forceSync, Nat.le_refl 0, rfl⟩
    | k + 1 => (h.driver k hr).elim fun m hm => hm.elim fun f hf => ⟨m + 1, f, Nat.succ_le_succ hf.1, hf.2⟩
  waiter n x tEnd hr := match n with
    | 0 => ⟨0, forceSync, Nat.le_refl 0, rfl⟩
    | k + 1 => (h.waiter k x tEnd hr).elim fun m hm => hm.elim fun f hf => ⟨m + 1, f, Nat.succ_le_succ hf.1, hf.2⟩

/-- The state the core moves from differs from s in the schedule alone. -/
theorem CoreMovesNext.eq {s s' : State} {forceSync : Bool} (h : CoreMovesNext forceSync s s') :
    s' = { s with schedule := s'.schedule } := by
  rcases h with ⟨_, _, rfl⟩ | ⟨_, _, rfl⟩ <;> rfl

end Sys2Proof.Machine
end

