-- ==== Sys2Proof/Laws/Exec.lean ====
section
/-! SUPPORT. What any instruction can do to the state, said once: later proofs about every instruction cite it and do
not open the meanings. -/

namespace Sys2Proof.Machine

/-- Where an instruction can leave PC (40_execution.md R136 to R139, R402). -/
def PcReaches (s : State) (pc : Word) : Prop :=
  pc = s.PC ∨ pc = s.PC + 2#16 ∨ pc = s.PC + 4#16 ∨ (∃ nnn, pc = zext12 nnn) ∨
    (∃ nnn b, pc = zext12 nnn + zext8 b) ∨ ∃ a ∈ s.stack, pc = a + 2#16

/-- What executing i in s can do, field by field, when it gives t. -/
structure ExecEffects (i : Instr) (s t : State) : Prop where
  cfg : t.cfg = s.cfg
  startTime : t.startTime = s.startTime
  key : t.key = s.key
  cycles : t.cycles = s.cycles
  schedule : t.schedule = s.schedule
  clock : s.clock ≤ t.clock
  memory : t.mem = s.mem ∨ ∃ addr bytes, addr + bytes.length ≤ memSize ∧
    t.mem = Memory.putRange s.cfg addr bytes s.mem
  pc : PcReaches s t.PC
  stack : t.stack = s.stack ∨ (t.stack = s.PC :: s.stack ∧ s.cfg.stackLimit ≠ some s.stack.length) ∨
    ∃ a, s.stack = a :: t.stack
  delay : t.delayDeadline = s.delayDeadline ∨ ∃ n, t.delayDeadline = deadlineAfter t.clock n
  sound : t.soundDeadline = s.soundDeadline ∨ ∃ n, t.soundDeadline = deadlineAfter t.clock n
  run : t.run = s.run ∨
    (∃ x tEnd, i = .ldVxK x ∧ t.run = .waitingKey x tEnd ∧ t.mem = s.mem ∧ t.PC = s.PC) ∨
    (t.run = .halted s.cfg.exitStatus ∧ t.PC = s.PC ∧ ∃ op,
      t.diagnostics = .illegalOpcode op s.PC s.cycles :: s.diagnostics ∨
        t.diagnostics = .stackOverflow op s.PC s.cycles :: s.diagnostics)

variable {i : Instr} {s t : State}

/-- An instruction that changes registers, I, PC, memory, the screen, the random counter and the records alone. -/
theorem ExecEffects.plain
    (h : t = { s with
      V := t.V, I := t.I, PC := t.PC, mem := t.mem, pixel := t.pixel, modified := t.modified
      diagnostics := t.diagnostics, randomReads := t.randomReads })
    (hm : t.mem = s.mem ∨ ∃ addr bytes, addr + bytes.length ≤ memSize ∧
      t.mem = Memory.putRange s.cfg addr bytes s.mem)
    (hp : PcReaches s t.PC) : ExecEffects i s t where
  cfg := by rw [h]
  startTime := by rw [h]
  key := by rw [h]
  cycles := by rw [h]
  schedule := by rw [h]
  clock := Nat.le_of_eq (by rw [h])
  memory := hm
  pc := hp
  stack := .inl (by rw [h])
  delay := .inl (by rw [h])
  sound := .inl (by rw [h])
  run := .inl (by rw [h])

/-- An instruction that reads the clock and changes registers, PC and the deadlines alone. -/
theorem ExecEffects.timed
    (h : t = { s with
      V := t.V, PC := t.PC, delayDeadline := t.delayDeadline, soundDeadline := t.soundDeadline
      clock := s.now, clockReads := t.clockReads })
    (hp : PcReaches s t.PC)
    (hd : t.delayDeadline = s.delayDeadline ∨ ∃ n, t.delayDeadline = deadlineAfter s.now n)
    (hs : t.soundDeadline = s.soundDeadline ∨ ∃ n, t.soundDeadline = deadlineAfter s.now n) :
    ExecEffects i s t where
  cfg := by rw [h]
  startTime := by rw [h]
  key := by rw [h]
  cycles := by rw [h]
  schedule := by rw [h]
  clock := by rw [h]; exact clock_le_now s
  memory := .inl (by rw [h])
  pc := hp
  stack := .inl (by rw [h])
  delay := by rw [show t.clock = s.now by rw [h]]; exact hd
  sound := by rw [show t.clock = s.now by rw [h]]; exact hs
  run := .inl (by rw [h])

/-- A fatal error. -/
theorem ExecEffects.fatal {d : Diagnostic}
    (hd : ∃ op, d = .illegalOpcode op s.PC s.cycles ∨ d = .stackOverflow op s.PC s.cycles) :
    ExecEffects i s (s.raiseFatal d) where
  cfg := rfl
  startTime := rfl
  key := rfl
  cycles := rfl
  schedule := rfl
  clock := Nat.le_refl _
  memory := .inl rfl
  pc := .inl rfl
  stack := .inl rfl
  delay := .inl rfl
  sound := .inl rfl
  run := .inr (.inr ⟨rfl, rfl, by obtain ⟨op, rfl | rfl⟩ := hd <;> exact ⟨op, by simp⟩⟩)

/-- An instruction that changes PC and the stack alone. -/
theorem ExecEffects.control (h : t = { s with PC := t.PC, stack := t.stack }) (hp : PcReaches s t.PC)
    (hs : t.stack = s.stack ∨ (t.stack = s.PC :: s.stack ∧ s.cfg.stackLimit ≠ some s.stack.length) ∨
      ∃ a, s.stack = a :: t.stack) : ExecEffects i s t where
  cfg := by rw [h]
  startTime := by rw [h]
  key := by rw [h]
  cycles := by rw [h]
  schedule := by rw [h]
  clock := Nat.le_of_eq (by rw [h])
  memory := .inl (by rw [h])
  pc := hp
  stack := hs
  delay := .inl (by rw [h])
  sound := .inl (by rw [h])
  run := .inl (by rw [h])

theorem pcReaches_advance (h : t.PC = s.PC + 2#16) : PcReaches s t.PC := .inr (.inl h)

theorem execEffects_skipIf (c : Bool) : ExecEffects i s (s.skipIf c) := by
  rw [skipIf_spec]
  refine .control rfl ?_ (.inl rfl)
  cases c
  · exact .inr (.inl rfl)
  · exact .inr (.inr (.inl rfl))

theorem execEffects_setWithFlag (x : RegIdx) (r : Byte) (f : Bool) :
    ExecEffects i s (s.setWithFlag x r f).advance := by
  rw [setWithFlag_only]
  exact .plain rfl (.inl rfl) (pcReaches_advance rfl)

/-- The effects of every instruction. -/
theorem exec_effects (h : exec i s = .next t) : ExecEffects i s t := by
  cases i <;> simp only [exec] at h
  case ret =>
    unfold execRet at h
    split at h <;> injection h with h <;> subst h
    · exact .plain rfl (.inl rfl) (.inl rfl)
    · next a rest hs =>
      exact .control rfl (.inr (.inr (.inr (.inr (.inr ⟨a, by simp [hs], rfl⟩))))) (.inr (.inr ⟨a, hs⟩))
  case sys =>
    unfold execSys at h
    split at h <;> injection h with h <;> subst h
    · exact .plain rfl (.inl rfl) (pcReaches_advance rfl)
    · exact .fatal ⟨_, .inl rfl⟩
  case call nnn =>
    unfold execCall at h
    split at h <;> injection h with h <;> subst h
    · exact .fatal ⟨_, .inr rfl⟩
    · next hl =>
      rw [stackFull_iff] at hl
      exact .control rfl (.inr (.inr (.inr (.inl ⟨nnn, rfl⟩)))) (.inr (.inl ⟨rfl, hl⟩))
  case ldB =>
    unfold execLdB at h
    split at h <;> injection h with h <;> subst h
    · exact .plain rfl (.inl rfl) (pcReaches_advance rfl)
    · next hm =>
      obtain ⟨hr, rfl⟩ := memWrite_spec hm
      exact .plain rfl (.inr ⟨_, _, hr, rfl⟩) (pcReaches_advance rfl)
  case ldMemVx =>
    unfold execLdMemVx at h
    split at h <;> injection h with h <;> subst h
    · exact .plain rfl (.inl rfl) (pcReaches_advance rfl)
    · next hm =>
      obtain ⟨hr, rfl⟩ := memWrite_spec hm
      rw [advanceIndex_spec]
      exact .plain rfl (.inr ⟨_, _, hr, rfl⟩) (pcReaches_advance rfl)
  case ldVxMem =>
    unfold execLdVxMem at h
    split at h <;> injection h with h <;> subst h
    · exact .plain rfl (.inl rfl) (pcReaches_advance rfl)
    · rw [advanceIndex_spec]
      exact .plain rfl (.inl rfl) (pcReaches_advance rfl)
  case drw =>
    unfold execDrw at h
    split at h <;> injection h with h <;> subst h
    · exact .plain rfl (.inl rfl) (pcReaches_advance rfl)
    · rw [drawSprite_only]
      exact .plain rfl (.inl rfl) (pcReaches_advance rfl)
  case ldVxK x =>
    unfold execLdVxK at h
    injection h with h
    subst h
    rcases waitDeadline_cases s.clearPending with ⟨_, h⟩ | ⟨_, _, h⟩ <;> rw [h]
    · exact ⟨rfl, rfl, rfl, rfl, rfl, Nat.le_refl _, .inl rfl, .inl rfl, .inl rfl, .inl rfl, .inl rfl,
        .inr (.inl ⟨x, _, rfl, rfl, rfl, rfl⟩)⟩
    · exact ⟨rfl, rfl, rfl, rfl, rfl, clock_le_now s, .inl rfl, .inl rfl, .inl rfl, .inl rfl, .inl rfl,
        .inr (.inl ⟨x, _, rfl, rfl, rfl, rfl⟩)⟩
  all_goals
    injection h with h
    subst h
  case seImm => exact execEffects_skipIf _
  case sneImm => exact execEffects_skipIf _
  case seReg => exact execEffects_skipIf _
  case sneReg => exact execEffects_skipIf _
  case skp => exact execEffects_skipIf _
  case sknp => exact execEffects_skipIf _
  case addReg => exact execEffects_setWithFlag _ _ _
  case subReg => exact execEffects_setWithFlag _ _ _
  case subn => exact execEffects_setWithFlag _ _ _
  case shr => exact execEffects_setWithFlag _ _ _
  case shl => exact execEffects_setWithFlag _ _ _
  case jp nnn => exact .control rfl (.inr (.inr (.inr (.inl ⟨nnn, rfl⟩)))) (.inl rfl)
  case jpV0 nnn => exact .control rfl (.inr (.inr (.inr (.inr (.inl ⟨nnn, _, rfl⟩))))) (.inl rfl)
  case ldVxDt => exact .timed rfl (pcReaches_advance rfl) (.inl rfl) (.inl rfl)
  case ldDtVx => exact .timed rfl (pcReaches_advance rfl) (.inr ⟨_, rfl⟩) (.inl rfl)
  case ldStVx => exact .timed rfl (pcReaches_advance rfl) (.inl rfl) (.inr ⟨_, rfl⟩)
  all_goals exact .plain rfl (.inl rfl) (pcReaches_advance rfl)

end Sys2Proof.Machine
end

