-- ==== Sys2Proof/Laws/PerInstr.lean ====
section
/-! SUPPORT. The families of statements made per instruction (LAWS.json): RoundTrip says that the decoder gives a
well-formed instruction back from its word (30_encoding.md R104, R105). -/

namespace Sys2Proof.Laws.RoundTrip

/-- Decoding the word of a well-formed instruction gives the instruction. -/
def Statement (i : Instr) : Prop := i.wellFormed = true → decodeWord (encode i) = .ok i

/-- The one form with a condition: a SYS word is neither 00E0 nor 00EE, because its NNN is neither of theirs. -/
theorem sys (nnn : Addr12) : Statement (.sys nnn) := by
  intro h
  simp only [Instr.wellFormed, Bool.and_eq_true, decide_eq_true_eq] at h
  have hcls : formA 0x0#4 nnn ≠ 0x00E0#16 := fun e => h.1 (by rw [← fieldNNN_formA 0x0#4 nnn, e]; rfl)
  have hret : formA 0x0#4 nnn ≠ 0x00EE#16 := fun e => h.2 (by rw [← fieldNNN_formA 0x0#4 nnn, e]; rfl)
  simp [encode, decodeWord, decode0, hcls, hret]

theorem cls : Statement (.cls) := fun _ => rfl
theorem ret : Statement (.ret) := fun _ => rfl
theorem jp (nnn : Addr12) : Statement (.jp nnn) := fun _ => by simp [encode, decodeWord]
theorem call (nnn : Addr12) : Statement (.call nnn) := fun _ => by simp [encode, decodeWord]
theorem seImm (x : RegIdx) (nn : Byte) : Statement (.seImm x nn) := fun _ => by simp [encode, decodeWord]
theorem sneImm (x : RegIdx) (nn : Byte) : Statement (.sneImm x nn) := fun _ => by simp [encode, decodeWord]
theorem seReg (x y : RegIdx) : Statement (.seReg x y) := fun _ => by simp [encode, decodeWord]
theorem ldImm (x : RegIdx) (nn : Byte) : Statement (.ldImm x nn) := fun _ => by simp [encode, decodeWord]
theorem addImm (x : RegIdx) (nn : Byte) : Statement (.addImm x nn) := fun _ => by simp [encode, decodeWord]
theorem ldReg (x y : RegIdx) : Statement (.ldReg x y) := fun _ => by simp [encode, decodeWord, decode8]
theorem orReg (x y : RegIdx) : Statement (.orReg x y) := fun _ => by simp [encode, decodeWord, decode8]
theorem andReg (x y : RegIdx) : Statement (.andReg x y) := fun _ => by simp [encode, decodeWord, decode8]
theorem xorReg (x y : RegIdx) : Statement (.xorReg x y) := fun _ => by simp [encode, decodeWord, decode8]
theorem addReg (x y : RegIdx) : Statement (.addReg x y) := fun _ => by simp [encode, decodeWord, decode8]
theorem subReg (x y : RegIdx) : Statement (.subReg x y) := fun _ => by simp [encode, decodeWord, decode8]
theorem shr (x y : RegIdx) : Statement (.shr x y) := fun _ => by simp [encode, decodeWord, decode8]
theorem subn (x y : RegIdx) : Statement (.subn x y) := fun _ => by simp [encode, decodeWord, decode8]
theorem shl (x y : RegIdx) : Statement (.shl x y) := fun _ => by simp [encode, decodeWord, decode8]
theorem sneReg (x y : RegIdx) : Statement (.sneReg x y) := fun _ => by simp [encode, decodeWord]
theorem ldI (nnn : Addr12) : Statement (.ldI nnn) := fun _ => by simp [encode, decodeWord]
theorem jpV0 (nnn : Addr12) : Statement (.jpV0 nnn) := fun _ => by simp [encode, decodeWord]
theorem rnd (x : RegIdx) (nn : Byte) : Statement (.rnd x nn) := fun _ => by simp [encode, decodeWord]
theorem drw (x y : RegIdx) (n : Nibble) : Statement (.drw x y n) := fun _ => by simp [encode, decodeWord]
theorem skp (x : RegIdx) : Statement (.skp x) := fun _ => by simp [encode, decodeWord, decodeE]
theorem sknp (x : RegIdx) : Statement (.sknp x) := fun _ => by simp [encode, decodeWord, decodeE]
theorem ldVxDt (x : RegIdx) : Statement (.ldVxDt x) := fun _ => by simp [encode, decodeWord, decodeF]
theorem ldVxK (x : RegIdx) : Statement (.ldVxK x) := fun _ => by simp [encode, decodeWord, decodeF]
theorem ldDtVx (x : RegIdx) : Statement (.ldDtVx x) := fun _ => by simp [encode, decodeWord, decodeF]
theorem ldStVx (x : RegIdx) : Statement (.ldStVx x) := fun _ => by simp [encode, decodeWord, decodeF]
theorem addI (x : RegIdx) : Statement (.addI x) := fun _ => by simp [encode, decodeWord, decodeF]
theorem ldF (x : RegIdx) : Statement (.ldF x) := fun _ => by simp [encode, decodeWord, decodeF]
theorem ldB (x : RegIdx) : Statement (.ldB x) := fun _ => by simp [encode, decodeWord, decodeF]
theorem ldMemVx (x : RegIdx) : Statement (.ldMemVx x) := fun _ => by simp [encode, decodeWord, decodeF]
theorem ldVxMem (x : RegIdx) : Statement (.ldVxMem x) := fun _ => by simp [encode, decodeWord, decodeF]

end Sys2Proof.Laws.RoundTrip
end

