-- ==== Sys2Proof/Tests/Slice0.lean ====
section
/-! SUPPORT. The model's own tests. Expected values come from 95_test_vectors.md and the rules' own examples, and the
decode words are written out from the formats of 30_encoding.md R102 and the map of R104. The witnesses show, for each
obligation with hypotheses, a state and operands that meet them. -/

namespace Sys2Proof.Tests

open Sys2Proof Sys2Proof.Machine

/-! ### A small state, and what a step gives -/

/-- The defaults of 95_test_vectors.md, with EXIT_STATUS 1 and FX0A taking any change. -/
def cfg : Config := { standardConfig with waitReleaseOnly := false, exitStatus := 1 }

/-- A constructed session at clock 0. -/
def base : State := State.construct cfg 0

/-- Set registers. -/
def withRegs (l : List (RegIdx × Byte)) (s : State) : State := l.foldl (fun t p => t.setReg p.1 p.2) s

/-- Put bytes in memory. -/
def poke (addr : Nat) (bytes : List Byte) (s : State) : State :=
  { s with mem := Memory.putRange s.cfg addr bytes s.mem }

/-- Change the configuration. -/
def withCfg (f : Config → Config) (s : State) : State := { s with cfg := f s.cfg }

/-- Turn one pixel on. -/
def lit (p : Fin 64 × Fin 32) (s : State) : State := { s with pixel := s.pixel.flip p }

/-- The test p of the next state, false of a stop. -/
def after (r : Result) (p : State → Bool) : Bool :=
  match r with
  | .next t => p t
  | .fault _ | .refused _ => false

/-- The byte at an address, as a number, 256 out of range. -/
def peek (s : State) (a : Nat) : Nat := (readByte s a).elim 256 BitVec.toNat

/-- Whether each of these pixels is on. -/
def pixels (s : State) (ps : List (Fin 64 × Fin 32)) : List Bool := ps.map s.pixel.at

/-! ### WellFormed: the ill-formed terms are refused -/

theorem test_wellFormed_refuses_sys_0E0 : (Instr.sys 0x0E0#12).wellFormed = false := by decide
theorem test_wellFormed_refuses_sys_0EE : (Instr.sys 0x0EE#12).wellFormed = false := by decide
theorem test_wellFormed_takes_sys_0E1 : (Instr.sys 0x0E1#12).wellFormed = true := by decide

/-! ### Decode: one word written out for each constructor -/

theorem test_decode_cls : decodeWord 0b0000_0000_1110_0000#16 = .ok .cls := by decide
theorem test_decode_ret : decodeWord 0b0000_0000_1110_1110#16 = .ok .ret := by decide
theorem test_decode_sys : decodeWord 0b0000_0001_0010_0011#16 = .ok (.sys 0x123#12) := by decide
theorem test_decode_jp : decodeWord 0b0001_0010_0011_0100#16 = .ok (.jp 0x234#12) := by decide
theorem test_decode_call : decodeWord 0b0010_0011_0000_0000#16 = .ok (.call 0x300#12) := by decide
theorem test_decode_seImm : decodeWord 0b0011_1010_0000_0010#16 = .ok (.seImm 0xA#4 0x02#8) := by decide
theorem test_decode_sneImm : decodeWord 0b0100_1010_0000_0011#16 = .ok (.sneImm 0xA#4 0x03#8) := by decide
theorem test_decode_seReg : decodeWord 0b0101_0001_0010_0000#16 = .ok (.seReg 1#4 2#4) := by decide
theorem test_decode_ldImm : decodeWord 0b0110_1010_0000_0010#16 = .ok (.ldImm 0xA#4 0x02#8) := by decide
theorem test_decode_addImm : decodeWord 0b0111_0101_0000_0001#16 = .ok (.addImm 5#4 0x01#8) := by decide
theorem test_decode_ldReg : decodeWord 0b1000_0001_0010_0000#16 = .ok (.ldReg 1#4 2#4) := by decide
theorem test_decode_orReg : decodeWord 0b1000_0001_0010_0001#16 = .ok (.orReg 1#4 2#4) := by decide
theorem test_decode_andReg : decodeWord 0b1000_0001_0010_0010#16 = .ok (.andReg 1#4 2#4) := by decide
theorem test_decode_xorReg : decodeWord 0b1000_0001_0010_0011#16 = .ok (.xorReg 1#4 2#4) := by decide
theorem test_decode_addReg : decodeWord 0b1000_0001_0010_0100#16 = .ok (.addReg 1#4 2#4) := by decide
theorem test_decode_subReg : decodeWord 0b1000_0001_0010_0101#16 = .ok (.subReg 1#4 2#4) := by decide
theorem test_decode_shr : decodeWord 0b1000_0001_0010_0110#16 = .ok (.shr 1#4 2#4) := by decide
theorem test_decode_subn : decodeWord 0b1000_0001_0010_0111#16 = .ok (.subn 1#4 2#4) := by decide
theorem test_decode_shl : decodeWord 0b1000_0001_0010_1110#16 = .ok (.shl 1#4 2#4) := by decide
theorem test_decode_sneReg : decodeWord 0b1001_0001_0010_0000#16 = .ok (.sneReg 1#4 2#4) := by decide
theorem test_decode_ldI : decodeWord 0b1010_0010_1111_0000#16 = .ok (.ldI 0x2F0#12) := by decide
theorem test_decode_jpV0 : decodeWord 0b1011_0011_0000_0000#16 = .ok (.jpV0 0x300#12) := by decide
theorem test_decode_rnd : decodeWord 0b1100_0011_0000_1111#16 = .ok (.rnd 3#4 0x0F#8) := by decide
theorem test_decode_drw : decodeWord 0b1101_0000_0001_0101#16 = .ok (.drw 0#4 1#4 5#4) := by decide
theorem test_decode_skp : decodeWord 0b1110_0010_1001_1110#16 = .ok (.skp 2#4) := by decide
theorem test_decode_sknp : decodeWord 0b1110_0010_1010_0001#16 = .ok (.sknp 2#4) := by decide
theorem test_decode_ldVxDt : decodeWord 0b1111_0011_0000_0111#16 = .ok (.ldVxDt 3#4) := by decide
theorem test_decode_ldVxK : decodeWord 0b1111_0011_0000_1010#16 = .ok (.ldVxK 3#4) := by decide
theorem test_decode_ldDtVx : decodeWord 0b1111_0001_0001_0101#16 = .ok (.ldDtVx 1#4) := by decide
theorem test_decode_ldStVx : decodeWord 0b1111_0010_0001_1000#16 = .ok (.ldStVx 2#4) := by decide
theorem test_decode_addI : decodeWord 0b1111_0001_0001_1110#16 = .ok (.addI 1#4) := by decide
theorem test_decode_ldF : decodeWord 0b1111_0100_0010_1001#16 = .ok (.ldF 4#4) := by decide
theorem test_decode_ldB : decodeWord 0b1111_0011_0011_0011#16 = .ok (.ldB 3#4) := by decide
theorem test_decode_ldMemVx : decodeWord 0b1111_0001_0101_0101#16 = .ok (.ldMemVx 1#4) := by decide
theorem test_decode_ldVxMem : decodeWord 0b1111_0001_0110_0101#16 = .ok (.ldVxMem 1#4) := by decide

/-- V1's illegal words. -/
theorem test_decode_illegal : [0x5121#16, 0x8128#16, 0x812D#16, 0x812F#16, 0x912F#16, 0xE100#16, 0xE19F#16, 0xE1A2#16,
    0xF100#16, 0xF108#16, 0xF130#16, 0xF175#16, 0xFFFF#16].all (fun op => (decodeWord op).isOk == false) = true := by
  decide

/-- A list of one byte is no instruction (R100). -/
theorem test_decode_truncated : decodeBytes [0x00#8] = .error .truncated := by decide

/-- The first byte is the high one, and the bytes after the word are left (R76). -/
theorem test_decode_bytes : decodeBytes [0x6A#8, 0x02#8, 0xFF#8] = .ok (.ldImm 0xA#4 0x02#8, [0xFF#8]) := by decide

/-! ### ALU (V3, W1 to W3) -/

theorem test_addImm_wraps : after (exec (.addImm 5#4 0x01#8) (withRegs [(5, 0xFF)] base))
    (fun t => t.reg 5#4 == 0x00#8 && t.reg vf == 0x00#8 && t.PC == 0x202#16) = true := by decide
theorem test_addImm_vf_takes_the_sum : after (exec (.addImm 0xF#4 0x01#8) (withRegs [(0xF, 0x07)] base))
    (fun t => t.reg vf == 0x08#8) = true := by decide
theorem test_ldReg : after (exec (.ldReg 1#4 2#4) (withRegs [(1, 0x12), (2, 0x34)] base))
    (fun t => t.reg 1#4 == 0x34#8 && t.reg 2#4 == 0x34#8) = true := by decide
theorem test_orReg : after (exec (.orReg 1#4 2#4) (withRegs [(1, 0x0F), (2, 0xF0), (0xF, 5)] base))
    (fun t => t.reg 1#4 == 0xFF#8 && t.reg vf == 0x05#8) = true := by decide
theorem test_andReg : after (exec (.andReg 1#4 2#4) (withRegs [(1, 0x3C), (2, 0x0F)] base))
    (fun t => t.reg 1#4 == 0x0C#8) = true := by decide
theorem test_xorReg : after (exec (.xorReg 1#4 2#4) (withRegs [(1, 0xFF), (2, 0x0F)] base))
    (fun t => t.reg 1#4 == 0xF0#8) = true := by decide
theorem test_addReg_carry : after (exec (.addReg 1#4 2#4) (withRegs [(1, 0x80), (2, 0x80)] base))
    (fun t => t.reg 1#4 == 0x00#8 && t.reg vf == 0x01#8) = true := by decide
theorem test_addReg_vf_is_addend : after (exec (.addReg 1#4 0xF#4) (withRegs [(1, 0x10), (0xF, 0x01)] base))
    (fun t => t.reg 1#4 == 0x11#8 && t.reg vf == 0x00#8) = true := by decide
theorem test_subReg_borrow : after (exec (.subReg 1#4 2#4) (withRegs [(1, 0x05), (2, 0x07)] base))
    (fun t => t.reg 1#4 == 0xFE#8 && t.reg vf == 0x00#8) = true := by decide
theorem test_subReg_flag_first : after (exec (.subReg 0xF#4 1#4)
    (withCfg (fun c => { c with vfOrder := .flagFirst }) (withRegs [(0xF, 0x05), (1, 0x07)] base)))
    (fun t => t.reg vf == 0xFE#8) = true := by decide
theorem test_subn : after (exec (.subn 1#4 2#4) (withRegs [(1, 0x05), (2, 0x07)] base))
    (fun t => t.reg 1#4 == 0x02#8 && t.reg vf == 0x01#8) = true := by decide
theorem test_subn_flag_last : after (exec (.subn 0xF#4 1#4) (withRegs [(0xF, 0x05), (1, 0x07)] base))
    (fun t => t.reg vf == 0x01#8) = true := by decide
theorem test_shr_classic : after (exec (.shr 1#4 2#4) (withRegs [(2, 0x05)] base))
    (fun t => t.reg 1#4 == 0x02#8 && t.reg 2#4 == 0x05#8 && t.reg vf == 0x01#8) = true := by decide
theorem test_shr_alternate : after (exec (.shr 1#4 2#4)
    (withCfg (fun c => { c with altShift := true }) (withRegs [(2, 0x05)] base)))
    (fun t => t.reg 1#4 == 0x00#8 && t.reg vf == 0x00#8) = true := by decide
theorem test_shl_classic : after (exec (.shl 1#4 2#4) (withRegs [(1, 0x01), (2, 0x81)] base))
    (fun t => t.reg 1#4 == 0x02#8 && t.reg vf == 0x01#8) = true := by decide
theorem test_shl_alternate : after (exec (.shl 1#4 2#4)
    (withCfg (fun c => { c with altShift := true }) (withRegs [(1, 0x01), (2, 0x81)] base)))
    (fun t => t.reg 1#4 == 0x02#8 && t.reg vf == 0x00#8) = true := by decide
theorem test_rnd_mask_zero : after (exec (.rnd 3#4 0x00#8) (withRegs [(3, 0xFF)] base))
    (fun t => t.randomReads == 1) = true := by decide

/-! ### Display (V4) -/

theorem test_cls : after (exec .cls (lit (3, 4) base)) (fun t => pixels t [(3, 4)] == [false] && t.modified) = true := by decide
theorem test_drw_wraps : after (exec (.drw 0#4 1#4 1#4)
    (withCfg (fun c => { c with screenWrap := true }) (poke 0x300 [0xFF] (withRegs [(0, 0x3E)] (base.setI 0x300)))))
    (fun t => pixels t [(61, 0), (62, 0), (63, 0), (0, 0), (5, 0), (6, 0), (0, 1)] ==
      [false, true, true, true, true, false, false] && t.reg vf == 0x00#8) = true := by decide
theorem test_drw_collides : after (exec (.drw 0#4 1#4 1#4)
    (lit (3, 4) (poke 0x300 [0x10] (withRegs [(1, 0x04)] (base.setI 0x300)))))
    (fun t => pixels t [(3, 4), (4, 4)] == [false, false] && t.reg vf == 0x01#8) = true := by decide

/-! ### Keypad (V5, V6) -/

theorem test_skp_down : after (exec (.skp 2#4) ((withRegs [(2, 5)] (base.setPC 0x300)).setKey 5 true))
    (fun t => t.PC == 0x304#16) = true := by decide
theorem test_sknp_above_15 : after (exec (.sknp 2#4) (withRegs [(2, 0x12)] (base.setPC 0x300)))
    (fun t => t.PC == 0x304#16) = true := by decide
theorem test_ldVxK_waits : after (exec (.ldVxK 3#4) (base.setKey 9 true))
    (fun t => t.run == .waitingKey 3#4 none && t.pending.isNone && t.PC == 0x200#16) = true := by decide
theorem test_ldVxK_ends : after (step (((base.setRun (.waitingKey 3#4 none))).setKey 9 true))
    (fun t => t.reg 3#4 == 0x09#8 && t.PC == 0x202#16 && t.run == .running && t.cycles == 1) = true := by decide

/-! ### Timers (V7) -/

/-- setDelay(60), read at 0, half a tick later, and at the end. -/
theorem test_timer_60 : [0, 8333333, 8333334, 500000000, 991666666, 991666667, 2000000000].map
    (fun t => (timerValue (deadlineAfter 0 60#8) t).toNat) = [60, 60, 59, 30, 1, 0, 0] := by decide
/-- setDelay(1) and setDelay(255). -/
theorem test_timer_1_255 : [(1, 0), (1, 8333332), (1, 8333333), (255, 0), (255, 1000000000)].map
    (fun p => (timerValue (deadlineAfter 0 (BitVec.ofNat 8 p.1)) p.2).toNat) = [1, 1, 0, 255, 195] := by decide
theorem test_sound_active : [99999999, 100000000].map
    (fun t => (base.setSoundDeadline (deadlineAfter 0 6#8)).soundActive t) = [true, false] := by decide
/-- V1 = 3C: the delay timer ends one second after the clock reading. -/
theorem test_ldDtVx : ∃ t, exec (.ldDtVx 1#4) (withRegs [(1, 0x3C)] base) = .next t ∧
    t.delayDeadline = t.clock + 1000000000 ∧ t.PC = 0x202#16 := ⟨_, rfl, rfl, by decide⟩
/-- V2 = 06: the sound is on for 0.1 s after the clock reading. -/
theorem test_ldStVx : ∃ t, exec (.ldStVx 2#4) (withRegs [(2, 0x06)] base) = .next t ∧
    t.soundDeadline = t.clock + 100000000 ∧ t.delayDeadline = 0 := ⟨_, rfl, rfl, rfl⟩
/-- A timer never set reads 0. -/
theorem test_ldVxDt : ∃ t, exec (.ldVxDt 3#4) (withRegs [(3, 7)] base) = .next t ∧
    t.reg 3#4 = timerValue 0 t.clock ∧ t.PC = 0x202#16 := ⟨_, rfl, rfl, by decide⟩

/-! ### Index and memory (V8, V9) -/

theorem test_ldI : after (exec (.ldI 0x2F0#12) base) (fun t => t.I == 0x02F0#16) = true := by decide
theorem test_addI_wraps : after (exec (.addI 1#4) (withRegs [(1, 2)] (base.setI 0xFFFF)))
    (fun t => t.I == 0x0001#16 && t.reg vf == 0x00#8) = true := by decide
theorem test_ldF_low_nibble : after (exec (.ldF 4#4) (withRegs [(4, 0x1A)] base))
    (fun t => t.I == 0x0032#16) = true := by decide
theorem test_ldB : after (exec (.ldB 3#4) (withRegs [(3, 0xFF)] (base.setI 0x300)))
    (fun t => [0x2FF, 0x300, 0x301, 0x302, 0x303].map (peek t) == [0, 2, 5, 5, 0] && t.I == 0x300#16) = true := by
  decide
theorem test_ldB_out_of_range : after (exec (.ldB 3#4) (withRegs [(3, 0x80)] (base.setI 0xFFE)))
    (fun t => t.mem == [] && t.PC == 0x202#16 && t.diagnostics == [.memOutOfRange 0xFFE 3]) = true := by decide
theorem test_ldMemVx : after (exec (.ldMemVx 1#4) (withRegs [(0, 1), (1, 2), (2, 3)] (base.setI 0x300)))
    (fun t => [0x300, 0x301, 0x302].map (peek t) == [1, 2, 0] && t.I == 0x302#16) = true := by decide
theorem test_ldMemVx_alternate : after (exec (.ldMemVx 0#4)
    (withCfg (fun c => { c with altIndex := true }) (withRegs [(0, 9)] (base.setI 0x300))))
    (fun t => peek t 0x300 == 9 && t.I == 0x300#16) = true := by decide
theorem test_ldVxMem : after (exec (.ldVxMem 1#4) (poke 0x300 [7, 8, 9] (base.setI 0x300)))
    (fun t => [0#4, 1#4, 2#4].map t.reg == [7#8, 8#8, 0#8] && t.I == 0x302#16) = true := by decide
theorem test_ldVxMem_out_of_range : after (exec (.ldVxMem 1#4) (base.setI 0xFFF))
    (fun t => t.V == base.V && t.I == 0xFFF#16 && t.diagnostics == [.memOutOfRange 0xFFF 2]) = true := by decide

/-! ### Control (V2, V10) -/

theorem test_sys_nop : after (exec (.sys 0x123#12) base) (fun t => t.PC == 0x202#16) = true := by decide
theorem test_sys_fatal : after (exec (.sys 0x123#12) (withCfg (fun c => { c with sysMode := .fatal }) base))
    (fun t => t.run == .halted 1 && t.PC == 0x200#16 && t.diagnostics == [.illegalOpcode 0x0123 0x200 0]) = true := by
  decide
theorem test_jp : after (exec (.jp 0x234#12) base) (fun t => t.PC == 0x234#16) = true := by decide
theorem test_jpV0_is_not_masked : after (exec (.jpV0 0xFFF#12) (withRegs [(0, 0xFF)] base))
    (fun t => t.PC == 0x10FE#16) = true := by decide
theorem test_call : after (exec (.call 0x300#12) base)
    (fun t => t.PC == 0x300#16 && t.stack == [0x200#16]) = true := by decide
theorem test_call_overflows : after (exec (.call 0x500#12)
    (withCfg (fun c => { c with stackLimit := some 1 }) ((base.setPC 0x400).setStack [0x200])))
    (fun t => t.run == .halted 1 && t.PC == 0x400#16 && t.stack == [0x200#16]) = true := by decide
theorem test_ret : after (exec .ret ((base.setPC 0x300).setStack [0x200]))
    (fun t => t.PC == 0x202#16 && t.stack == []) = true := by decide
theorem test_ret_underflows : after (exec .ret (base.setPC 0x300))
    (fun t => t.PC == 0x300#16 && t.diagnostics == [.stackUnderflow 0x300]) = true := by decide
theorem test_seImm : [2, 3].map (fun n => after (exec (.seImm 0xA#4 (BitVec.ofNat 8 n))
    (withRegs [(0xA, 2)] (base.setPC 0x202))) (fun t => t.PC == 0x206#16)) = [true, false] := by decide
theorem test_sneImm : [3, 2].map (fun n => after (exec (.sneImm 0xA#4 (BitVec.ofNat 8 n))
    (withRegs [(0xA, 2)] (base.setPC 0x202))) (fun t => t.PC == 0x206#16)) = [true, false] := by decide
theorem test_seReg : after (exec (.seReg 1#4 2#4) (withRegs [(1, 7), (2, 7)] (base.setPC 0x210)))
    (fun t => t.PC == 0x214#16) = true := by decide
theorem test_sneReg : after (exec (.sneReg 1#4 2#4) (withRegs [(1, 7), (2, 8)] (base.setPC 0x210)))
    (fun t => t.PC == 0x214#16) = true := by decide
/-- A step at an odd PC (V2): 6A02 at 0x201. -/
theorem test_step_odd_pc : after (step (poke 0x201 [0x6A, 0x02] (base.setPC 0x201)))
    (fun t => t.reg 0xA#4 == 0x02#8 && t.PC == 0x203#16 && t.cycles == 1) = true := by decide
/-- V11: an illegal word at 0x300 with 42 cycles counted. -/
theorem test_step_illegal : after (step { poke 0x300 [0x81, 0x28] (base.setPC 0x300) with cycles := 42 })
    (fun t => t.run == .halted 1 && t.PC == 0x300#16 && t.cycles == 42 &&
      t.diagnostics == [.illegalOpcode 0x8128 0x300 42]) = true := by decide
/-- The host's question: the placed word runs as the first instruction after reset. -/
theorem test_withFetchWord : after (step (State.reset.withFetchWord 16 0x6A02))
    (fun t => t.reg 0xA#4 == 0x02#8 && t.PC == 0x202#16 && t.cycles == 1) = true := by decide

/-! ### Witnesses for the obligations' hypotheses -/

/-- A session with a word at PC. -/
def holding (hi lo : Byte) : State := poke 0x200 [hi, lo] base

theorem next_base : CoreMovesNext false base base := .inl ⟨rfl, rfl, rfl⟩

/-- The core moves next by its token too, with forceSync true. -/
theorem next_token : CoreMovesNext true (base.setSchedule [.core true]) base := .inr ⟨[], rfl, rfl⟩

theorem next_holding (hi lo : Byte) : CoreMovesNext false (holding hi lo) (holding hi lo) := .inl ⟨rfl, rfl, rfl⟩

theorem witness_FetchReadsTwoBytesOrIsFatal :
    (base.setPC 0xFFE).PC.toNat < 0x0FFF ∧ 0x0FFF ≤ (base.setPC 0xFFF).PC.toNat ∧
    0x0FFF ≤ (base.setPC 0x1000).PC.toNat ∧ (base.setPC 0xFFF).run = .running ∧
    CoreMovesNext false (base.setPC 0xFFF) (base.setPC 0xFFF) :=
  ⟨by decide, by decide, by decide, rfl, .inl ⟨rfl, rfl, rfl⟩⟩

/-- 6A02 stays RUNNING, F30A does not. -/
theorem witness_StepRunsTheDecodedInstruction :
    ((holding 0x6A 0x02).fetch = some 0x6A02 ∧ decodeWord 0x6A02 = .ok (.ldImm 0xA 0x02) ∧
      after (exec (.ldImm 0xA 0x02) ((holding 0x6A 0x02).throttle 0x6A02 false)) (·.run == .running) = true) ∧
    ((holding 0xF3 0x0A).fetch = some 0xF30A ∧ decodeWord 0xF30A = .ok (.ldVxK 3) ∧
      after (exec (.ldVxK 3) ((holding 0xF3 0x0A).throttle 0xF30A false)) (·.run != .running) = true) := by decide

theorem witness_IllegalWordIsFatal : (holding 0x81 0x28).run = .running ∧ (holding 0x81 0x28).fetch = some 0x8128 ∧
    decodeWord 0x8128 = .error (.illegal8XYn 0x8128) := by decide

theorem witness_HaltedCoreTakesNoStep : (base.setRun (.halted 1)).run = .halted 1 := rfl

/-- A step that stays RUNNING and one that does not. -/
theorem witness_CompletedInstructionsCountOnce : after (step (holding 0x6A 0x02)) (·.run == .running) = true ∧
    after (step (holding 0x81 0x28)) (·.run != .running) = true := by decide

/-- Each clause: not RUNNING, jump, 00EE on an empty and a non-empty stack, skip, normal step. -/
theorem witness_PcAdvancesByTwoPerNormalStep : base.run = .running ∧
    after (exec (.call 0x300) (withCfg (fun c => { c with stackLimit := some 0 }) base)) (·.run != .running) = true ∧
    [Instr.jp 0x300, .call 0x300, .jpV0 0x300, .ret, .skp 0, .cls].all
      (fun i => after (exec i base) (·.run == .running)) = true ∧
    after (exec .ret (base.setStack [0x200])) (·.run == .running) = true := by decide

/-- Each transition: into the wait, a wait that goes on, each fatal error, and both ends of a wait. -/
theorem witness_RunStateMovesOnlyAsListed :
    after (step (holding 0xF3 0x0A)) (·.run == .waitingKey 3 none) = true ∧
    after (step (base.setRun (.waitingKey 3 none))) (·.run == .waitingKey 3 none) = true ∧
    after (step (holding 0x81 0x28)) (·.run == .halted 1) = true ∧
    after (step (base.setPC 0xFFF)) (·.run == .halted 1) = true ∧
    after (step (withCfg (fun c => { c with stackLimit := some 0 }) (holding 0x23 0x00))) (·.run == .halted 1) = true ∧
    after (step ((base.setRun (.waitingKey 3 none)).setKey 9 true)) (·.run == .running) = true := by decide

/-- A wait whose deadline, 0, has passed ends whatever the clock reads. -/
theorem witness_timeout : ∃ t, step (base.setRun (.waitingKey 3 (some 0))) = .next t ∧ t.run = .running :=
  ⟨_, by simp [step, State.coreStep, State.resumeWait, State.setRun, base, State.construct]; rfl, rfl⟩

/-- FREQUENCY 0; a word outside THROTTLED; one in it; and forceSync. -/
theorem witness_ThrottleOnlyLetsTimePass : base.cfg.frequency = 0 ∧
    decodeWord 0x6A02 = .ok (.ldImm 0xA 0x02) ∧
    (withCfg (fun c => { c with frequency := 500 }) base).cfg.frequency ≠ 0 ∧ decodeWord 0x00E0 = .ok .cls := by decide

theorem witness_ResetHoldsTheSpecifiedValues : cfg.wf = true ∧ (79 < 80) ∧ (4095 < 4096) ∧
    cfg.fontBase.toNat + 80 ≤ 80 := by decide

theorem witness_LoaderWritesAllOrNothing : base.run = .running ∧ base.cycles = 0 ∧ base.countCycle.cycles ≠ 0 ∧
    Memory.wf base.cfg base.mem = true ∧ (List.replicate 3584 0x12#8).length ≤ 3584 ∧
    3584 < (List.replicate 3585 0x12#8).length := by
  simp only [List.length_replicate]
  decide

/-- A session as constructed meets the invariant. -/
theorem base_inv : base.Inv where
  config := by decide
  memory := by decide
  pc := by decide
  entries := by simp [base, State.construct]
  depth := by simp [base, State.construct]
  exitStatus := by simp [base, State.construct]
  started := by decide
  delay := by decide
  sound := by decide
  waiting := by simp [base, State.construct]

theorem witness_EveryStepKeepsTheInvariant : base.Inv ∧ ∃ t, step base = .next t := ⟨base_inv, _, rfl⟩

theorem witness_RangeAccessesAreAllOrNothing : Memory.wf base.cfg base.mem = true ∧ 4093 + 3 ≤ 4096 ∧ 4096 + 0 ≤ 4096 ∧
    4096 < 4094 + 3 ∧ 4096 < 4097 + 0 ∧ 4093 + [1#8, 2#8, 3#8].length ≤ 4096 ∧
    4096 < 4094 + [1#8, 2#8, 3#8].length := by decide

/-- Next states in which I, the stack, a deadline, the screen, the pending slot and the run state have changed. -/
theorem witness_InstructionsWriteOnlyTheirUnits :
    after (exec (.ldI 0x300) base) (fun t => t.I != base.I) = true ∧
    after (exec (.call 0x300) base) (fun t => t.stack != base.stack) = true ∧
    after (exec .cls base) (fun t => t.modified != base.modified) = true ∧
    after (exec (.ldVxK 3) base) (fun t => t.run != base.run) = true ∧
    after (exec (.sys 0x123) (withCfg (fun c => { c with sysMode := .fatal }) base)) (fun t => t.run != base.run) =
      true := by decide

theorem witness_InstructionsWriteOnlyTheirRegisters : ∃ t, exec (.ldImm 0xA 0x02) base = .next t := ⟨_, rfl⟩

theorem witness_ConfigurationIsFixedAndTimeNeverGoesBack : ∃ t, step (holding 0x6A 0x02) = .next t := ⟨_, rfl⟩

theorem witness_ProgramsCannotSeeTheDriversState : ∃ t, exec .cls base = .next t := ⟨_, rfl⟩

/-- WritesResultAndFlag's clauses: X other than F, and X = F under each VF_ORDER. -/
theorem witness_WritesResultAndFlag : (1#4 : RegIdx) ≠ vf ∧ 0xF#4 = vf ∧ base.cfg.vfOrder = .flagLast ∧
    (withCfg (fun c => { c with vfOrder := .flagFirst }) base).cfg.vfOrder = .flagFirst := by decide

theorem witness_ShiftsTheSource : base.cfg.altShift = false ∧
    (withCfg (fun c => { c with altShift := true }) base).cfg.altShift = true := by decide

theorem witness_SysIsANoOpOrFatal : (0x0DF#12 ≠ 0x0E0#12 ∧ 0x0EF#12 ≠ 0x0EE#12) ∧ base.cfg.sysMode = .nop ∧
    (withCfg (fun c => { c with sysMode := .fatal }) base).cfg.sysMode = .fatal := by decide

theorem witness_RetPopsOrLeavesPc : base.stack = [] ∧ (base.setStack [0x200]).stack = [0x200] := by decide

/-- No limit, one below the limit, and at it. -/
theorem witness_CallPushesItsAddress : base.cfg.stackLimit ≠ some base.stack.length ∧
    (withCfg (fun c => { c with stackLimit := some 1 }) base).cfg.stackLimit ≠ some base.stack.length ∧
    (withCfg (fun c => { c with stackLimit := some 0 }) base).cfg.stackLimit = some base.stack.length := by decide

/-- Each skip's condition, met and not met. -/
theorem witness_Skips : base.reg 1 = 0x00 ∧ base.reg 1 ≠ 0x01 ∧ base.reg 1 = base.reg 2 ∧
    (base.setReg 1 7).reg 1 ≠ (base.setReg 1 7).reg 2 ∧ KeyDown (base.setKey 15 true) 15 ∧ ¬KeyDown base 15 ∧
    ¬KeyDown base 16 := by
  have hup : base.key[15] = false := by decide
  refine ⟨by decide, by decide, by decide, by decide, ⟨by decide, by decide⟩, ?_, ?_⟩
  · rintro ⟨_, hk⟩; simp [hup] at hk
  · rintro ⟨h, _⟩; exact absurd h (by decide)

theorem witness_StackUnderflowLivelocks : (holding 0x00 0xEE).run = .running ∧ (holding 0x00 0xEE).schedule = [] ∧
    (holding 0x00 0xEE).stack = [] ∧ (holding 0x00 0xEE).fetch = some 0x00EE := by decide

theorem witness_JumpToItselfRepeats : (holding 0x12 0x00).run = .running ∧ (holding 0x12 0x00).schedule = [] ∧
    (holding 0x12 0x00).stopsAt 0x200 := ⟨rfl, rfl, by unfold State.stopsAt; decide⟩

theorem witness_StoreDigitsWritesThreeBytes : Memory.wf base.cfg base.mem = true ∧
    (base.setI 0xFFD).I.toNat + 3 ≤ 4096 ∧ 4096 < (base.setI 0xFFE).I.toNat + 3 := by decide

/-- V0..VF at 0xFF0 and 0xFF1, under each ALT_INDEX: FX55 and FX65. -/
theorem witness_RegistersBlock : Memory.wf base.cfg base.mem = true ∧
    (base.setI 0xFF0).I.toNat + (0xF#4).toNat + 1 ≤ 4096 ∧ 4096 < (base.setI 0xFF1).I.toNat + (0xF#4).toNat + 1 ∧
    (base.setI 0xFFF).I.toNat + (0#4).toNat + 1 ≤ 4096 ∧ 1 ≤ (1#4).toNat ∧ base.cfg.altIndex = false ∧
    (withCfg (fun c => { c with altIndex := true }) base).cfg.altIndex = true := by decide

theorem witness_DumpThenLoadRestoresRegisters : Memory.wf base.cfg base.mem = true ∧
    (base.setI 0x300).I.toNat + (2#4).toNat + 1 ≤ 4096 ∧ ∃ t, exec (.ldMemVx 2) (base.setI 0x300) = .next t :=
  ⟨by decide, by decide, _, rfl⟩

/-- The word 1200 at 0x200, a jump to itself, after some cycles and at some clock time. -/
def jumping (cycles clock : Nat) : State := { holding 0x12 0x00 with cycles := cycles, clock := clock }

theorem step_jumping_core (c t : Nat) :
    step ((jumping c t).setSchedule [.core false]) = .next (jumping (c + 1) t) := by
  have hf : (jumping c t).fetch = some 0x1200#16 :=
    (show (jumping c t).fetch = (holding 0x12 0x00).fetch from rfl).trans (by decide)
  have ht : (jumping c t).throttleRuns 0x1200#16 false = false :=
    (show _ = (holding 0x12 0x00).throttleRuns 0x1200#16 false from rfl).trans (by decide)
  have hd : decodeWord 0x1200#16 = .ok (.jp 0x200#12) := by decide
  have hr : (jumping c t).run = .running := rfl
  rw [step_of_coreMovesNext (s := (jumping c t).setSchedule [.core false]) (s' := jumping c t) (.inr ⟨[], rfl, rfl⟩)
      (fun _ h => nomatch hr.symm.trans h),
    coreStep_of_fetch _ hr hf, throttle_eq_self _ ht, State.runWord, hd]
  rfl

theorem step_jumping_clock (c t : Nat) :
    step ((jumping c t).setSchedule [.advanceClock 1]) = .next (jumping c (t + 1)) := rfl

/-- The core and the clock move in turn. -/
def inTurn (n : Nat) : Move := if n % 2 = 0 then .core false else .advanceClock 1

theorem inTurn_core (n : Nat) : CoreMovesFrom inTurn n :=
  ⟨2 * n, false, by omega, by simp [inTurn]⟩

theorem fair_inTurn (c : Nat) : FairRun inTurn (fun n => jumping (c + (n + 1) / 2) (n / 2)) where
  steps n := by
    show step ((jumping (c + (n + 1) / 2) (n / 2)).setSchedule [inTurn n]) =
      .next (jumping (c + (n + 1 + 1) / 2) ((n + 1) / 2))
    rcases Nat.mod_two_eq_zero_or_one n with h | h
    · rw [show inTurn n = .core false by simp [inTurn, h], step_jumping_core,
        show c + (n + 1 + 1) / 2 = c + n / 2 + 1 by omega, show (n + 1) / 2 = n / 2 by omega]
    · rw [show inTurn n = .advanceClock 1 by simp [inTurn, h], step_jumping_clock,
        show (n + 1 + 1) / 2 = (n + 1) / 2 by omega, show (n + 1) / 2 = n / 2 + 1 by omega]
  clock T := ⟨2 * T, show T ≤ 2 * T / 2 by omega⟩
  driver n _ := inTurn_core n
  waiter n _ _ _ := inTurn_core n

theorem witness_FairRun : ∃ moves r, FairRun moves r := ⟨_, _, fair_inTurn 0⟩

/-- The core alone jumps for ever at one clock time: fairness is an assumption, as R449 says, and no law of the step. -/
theorem witness_unfairRun : InfiniteRun (fun _ => .core false) (fun n => jumping n 0) ∧
    ¬ClockUnbounded (fun n => jumping n 0) :=
  ⟨fun n => step_jumping_core n 0, fun h => (h 1).elim fun _ hn => Nat.not_succ_le_zero 0 hn⟩

/-- With moves of the clock alone the clock has no bound, but a RUNNING core never steps: the driver does not do what it
must (R63). -/
theorem witness_noDriver : InfiniteRun (fun _ => .advanceClock 1) (jumping 0) ∧ ClockUnbounded (jumping 0) ∧
    ¬DriverRunsLoop (fun _ => .advanceClock 1) (jumping 0) :=
  ⟨step_jumping_clock 0, fun T => ⟨T, Nat.le_refl T⟩, fun h => by
    obtain ⟨k, f, _, hk⟩ := h 0 rfl
    exact Move.noConfusion hk⟩

/-- The last clause of ConfigurationIsFixedAndTimeNeverGoesBack: a core that stays RUNNING while the driver runs. -/
theorem witness_staysRunning : ∃ moves r, InfiniteRun moves r ∧ DriverRunsLoop moves r ∧
    ∀ k, 0 ≤ k → (r k).run = .running :=
  ⟨_, _, (fair_inTurn 0).steps, (fair_inTurn 0).driver, fun _ _ => rfl⟩

/-- A core that waits for V3, with key 0's press in the slot and a deadline. -/
def waiting : State :=
  { jumping 0 0 with run := .waitingKey 3 (some 5), PC := 0x1FE#16, pending := some ⟨0, true⟩ }

theorem step_waiting : step (waiting.setSchedule [.core false]) = .next (jumping 1 0) := by rfl

/-- The last clause of WaitKeyHoldsForEver: a fair run that begins in that wait. -/
theorem witness_waitEnds : ∃ moves r, FairRun moves r ∧ (r 0).run = .waitingKey 3 (some 5) ∧
    (∀ k e, 0 ≤ k → (r k).pending = some e → (r k).cfg.waitReleaseOnly = true → e.pressed = false) ∧
    (r 0).pending ≠ none ∧ some 5 ≠ (none : Option Nat) :=
  ⟨_, _, (fair_inTurn 1).cons step_waiting, rfl, fun k _ _ _ h => by cases k <;> exact Bool.noConfusion h,
    by decide, by decide⟩

/-- A renderer that asks at every move and takes every other one. -/
theorem witness_RendererServed :
    RendererServed (fun _ => True) (fun n => if n % 2 = 0 then .core false else .snapshot true) :=
  fun n _ => ⟨2 * n + 1, true, by omega, by simp [show (2 * n + 1) % 2 = 1 by omega]⟩

/-- The last two clauses: a fair run in which no step sets a timer. -/
theorem witness_TimersFallToZeroAndStay : 5 ≤ 6 ∧ base.delayDeadline ≤ 0 ∧
    ∃ moves r, InfiniteRun moves r ∧ ClockUnbounded r ∧ (∀ k, 0 ≤ k → (r k).delayDeadline = (r 0).delayDeadline) ∧
      ∀ k, 0 ≤ k → (r k).soundDeadline = (r 0).soundDeadline :=
  ⟨by decide, by decide, _, _, (fair_inTurn 0).steps, (fair_inTurn 0).clock, fun _ _ => rfl, fun _ _ => rfl⟩

/-- A key that changes, one that does not, and one outside 0 to 15. -/
theorem witness_SetKeyRecordsOnlyChanges : (∀ status, base.run ≠ .halted status) ∧
    (base.setSchedule [.setKey 15 true]).schedule = .setKey 15 true :: [] ∧ base.key[15] ≠ true ∧
    base.key[15] = false ∧ 15 < 16 :=
  ⟨by simp [base, State.construct], rfl, by decide, by decide, by decide⟩

theorem witness_WaitKeyBeginsTheWait : base.cfg.waitTimeout = none ∧
    (withCfg (fun c => { c with waitTimeout := some 100 }) base).cfg.waitTimeout = some 100 := by decide

/-- A waiting core with an event, with a press when only releases count, and with none; and deadlines after and before
the clock. -/
theorem witness_WaitKeyEndsOnAnEventOrTimeout :
    (base.setRun (.waitingKey 3 none)).run = .waitingKey 3 none ∧
    CoreMovesNext false (base.setRun (.waitingKey 3 none)) (base.setRun (.waitingKey 3 none)) ∧
    (base.setKey 9 true).pending = some ⟨9, true⟩ ∧ base.cfg.waitReleaseOnly = false ∧
    (withCfg (fun c => { c with waitReleaseOnly := true }) base).cfg.waitReleaseOnly = true ∧ base.pending = none ∧
    base.clockRead.clock < base.now + 1 ∧ 0 ≤ base.clockRead.clock :=
  ⟨rfl, .inl ⟨rfl, rfl, rfl⟩, by decide, by decide, by decide, by decide, Nat.lt_succ_self _, Nat.zero_le _⟩

theorem witness_WaitKeyHoldsForEver : (base.setRun (.waitingKey 3 none)).run = .waitingKey 3 none ∧
    (base.setRun (.waitingKey 3 none)).pending = none ∧ (base.setRun (.waitingKey 3 none)).schedule = [] :=
  ⟨rfl, rfl, rfl⟩

/-- No rows and 15 rows; start coordinates at the last pixel and past it; each SCREEN_OOB. -/
theorem witness_DrawFlipsTheCoveredPixels : ([] : List Byte).length ≤ 15 ∧ (List.replicate 15 0xFF#8).length ≤ 15 ∧
    ((63#8).toNat < 64 ∧ (31#8).toNat < 32) ∧ (64 ≤ (64#8).toNat ∨ 32 ≤ (0#8).toNat) ∧ base.cfg.screenOob = .wrap ∧
    (withCfg (fun c => { c with screenOob := .reject }) base).cfg.screenOob = .reject := by decide

/-- Covers holds of a pixel that wraps, and of none of an empty sprite. -/
theorem witness_Covers : Covers true [0x01#8] 63 31 (6, 31) ∧ ¬Covers true [0x00#8] 63 31 (6, 31) := by
  refine ⟨⟨0, 7, 0x01#8, by decide, rfl, by decide, .inr ⟨rfl, rfl⟩, .inl rfl⟩, ?_⟩
  rintro ⟨r, c, row, _, h, hb, _⟩
  have hrow : row = 0x00#8 := by
    have := List.mem_of_getElem? h
    simpa using this
  simp [hrow] at hb

theorem witness_DrawReadsTheSpriteAtI : (base.setI 0xFFD).I.toNat + (3#4).toNat ≤ 4096 ∧
    (base.setI 0x1000).I.toNat + (0#4).toNat ≤ 4096 ∧ 4096 < (base.setI 0xFFE).I.toNat + (3#4).toNat ∧
    4096 < (base.setI 0x1001).I.toNat + (0#4).toNat := by decide

theorem witness_DrawingTwiceRestoresTheGrid : ∃ (t u : State) (hit hit' : Bool), [0xF0#8].length ≤ 15 ∧
    base.drawSprite [0xF0#8] 0 0 = (t, hit) ∧ t.drawSprite [0xF0#8] 0 0 = (u, hit') :=
  ⟨_, _, _, _, by decide, rfl, rfl⟩

theorem witness_SnapshotCopiesAndConsumes : (∀ status, base.run ≠ .halted status) ∧
    (base.setSchedule [.snapshot true]).schedule = .snapshot true :: [] ∧
    (base.setSchedule [.snapshot false]).schedule = .snapshot false :: [] :=
  ⟨by simp [base, State.construct], rfl, rfl⟩

end Sys2Proof.Tests
end

/-! # Range accesses (20_memory.md R72, R73)

What readByte sees of a range read and of a range write, whatever else the state after the write changes. -/

namespace Sys2Proof.Machine

/-- Below 4096 readByte answers the byte of memory (R71). -/
theorem readByte_eq_some {s : State} {a : Nat} (h : a < memSize) :
    readByte s a = some (Memory.byteAt s.cfg s.mem a) := if_pos h

/-- The bytes of a range read are what readByte gives at their addresses, in order. -/
theorem readByte_of_memRead {s : State} {addr n : Nat} {bytes : List Byte} (h : memRead s addr n = some bytes)
    {j : Nat} (hj : j < bytes.length) : readByte s (addr + j) = some bytes[j] := by
  obtain ⟨hrange, hlen, hbyte⟩ := memRead_spec h
  rw [readByte_eq_some (by omega), hbyte j hj]

section
variable {s t : State} {addr : Nat} {bytes : List Byte}

/-- A state whose memory is s's after a run of writes reads as s outside the run. -/
theorem sameMemoryOutside_of_putRange (hc : t.cfg = s.cfg) (hm : t.mem = Memory.putRange s.cfg addr bytes s.mem) :
    SameMemoryOutside addr bytes.length s t := by
  intro a ha
  simp only [readByte, hc, hm, Memory.byteAt_putRange_outside ha]

/-- A state whose memory is s's after a run of writes reads the bytes written inside the run. -/
theorem readByte_of_putRange (hw : Memory.wf s.cfg s.mem = true) (hr : addr + bytes.length ≤ memSize)
    (hc : t.cfg = s.cfg) (hm : t.mem = Memory.putRange s.cfg addr bytes s.mem) {j : Nat} (hj : j < bytes.length) :
    readByte t (addr + j) = some bytes[j] := by
  rw [readByte_eq_some (by omega), hc, hm, Memory.byteAt_putRange_inside hw hr hj]

end

/-- Settles O17, from the laws of memRead and memWrite and of a run of writes to a canonical memory. -/
theorem rangeAccessesAreAllOrNothing : Obligations.RangeAccessesAreAllOrNothing := by
  refine ⟨fun s addr n hr => ?_, fun _ _ _ => memRead_eq_none, fun s addr bytes hw hr => ?_,
    fun _ _ _ => memWrite_eq_none⟩
  · have hread := memRead_eq_some (s := s) hr
    exact ⟨_, hread, by simp, fun j hj => readByte_of_memRead hread hj⟩
  · exact ⟨_, memWrite_eq_some hr, rfl, sameMemoryOutside_of_putRange rfl rfl, Memory.wf_putRange hw hr,
      fun j hj => readByte_of_putRange hw hr (by rfl) (by rfl) hj⟩

end Sys2Proof.Machine

/-! # The core's move (40_execution.md)

What a fatal error, a fetch out of range and an illegal word give, what the core's move adds to the cycle counter, and
where each instruction leaves PC. -/

namespace Sys2Proof.Machine

/-! ### The state the core moves from -/

section
variable {s s' t : State} {forceSync : Bool} (h : CoreMovesNext forceSync s s')
include h

theorem CoreMovesNext.run : s'.run = s.run := by rw [h.eq]

theorem CoreMovesNext.PC : s'.PC = s.PC := by rw [h.eq]

theorem CoreMovesNext.cycles : s'.cycles = s.cycles := by rw [h.eq]

/-- A RUNNING core that moves next makes the step. -/
theorem step_of_running (hr : s.run = .running) : step s = s'.coreStep forceSync :=
  step_of_coreMovesNext h fun status => by simp [hr]

/-- When the core moves next and the step gives a next state, the core's move gave it. -/
theorem coreStep_of_step (ht : step s = .next t) : s'.coreStep forceSync = .next t :=
  step_of_coreMovesNext h (step_cases s ht).1 ▸ ht

end

/-! ### Fatal errors (R132, R134, R402) -/

theorem fatalWith_raiseFatal (s : State) (d : Diagnostic) : FatalWith d s (s.raiseFatal d) :=
  ⟨rfl, fun a => raiseFatal_readByte s a d⟩

/-- A RUNNING core whose fetch is out of range takes the fatal error FetchOutOfRange (R132). -/
theorem coreStep_of_fetch_none {s : State} {forceSync : Bool} (hr : s.run = .running) (hf : s.fetch = none) :
    s.coreStep forceSync = .next (s.raiseFatal (.fetchOutOfRange s.PC s.cycles)) := by
  simp only [State.coreStep, hr, hf]

/-- An illegal word takes the fatal error IllegalOpcode (R134). -/
theorem runWord_of_illegal {s : State} {op : Word} {e : DecodeError} (he : decodeWord op = .error e) :
    s.runWord op = .next (s.raiseFatal (.illegalOpcode op s.PC s.cycles)) := by
  simp only [State.runWord, he]

/-- Without forceSync the throttle does not run before an illegal word: it is no word of THROTTLED (R142, R143). -/
theorem throttle_of_illegal (s : State) {op : Word} {e : DecodeError} (he : decodeWord op = .error e) :
    s.throttle op false = s :=
  throttle_eq_self s (by simp [State.throttleRuns, he])

/-- Settles O4: the fetch reads the two bytes when both lie in memory, and a RUNNING core that cannot fetch takes the
fatal error. -/
theorem fetchReadsTwoBytesOrIsFatal : Obligations.FetchReadsTwoBytesOrIsFatal := by
  refine ⟨fun s hpc => ?_, fun forceSync s s' hr hnext hpc => ?_⟩
  · have hrange : s.PC.toNat + 2 ≤ memSize := by rw [memSize]; omega
    exact ⟨_, _, _, readByte_eq_some (by omega), readByte_eq_some (by omega), fetch_eq_some hrange,
      composeWord_toNat _ _⟩
  · have hfetch : s'.fetch = none := fetch_eq_none (by rw [hnext.PC, memSize]; omega)
    rw [step_of_running hnext hr, coreStep_of_fetch_none (hnext.run.trans hr) hfetch, hnext.PC, hnext.cycles]
    exact ⟨_, rfl, fatalWith_raiseFatal s' _⟩

/-- Settles O6: after the throttle, which keeps PC and the cycle counter, the word is fatal. -/
theorem illegalWordIsFatal : Obligations.IllegalWordIsFatal := by
  intro forceSync s s' op e hr hnext hfetch he
  rw [step_of_running hnext hr, coreStep_of_fetch s' (hnext.run.trans hr) hfetch, runWord_of_illegal he, throttle_PC,
    throttle_cycles, hnext.PC, hnext.cycles]
  exact ⟨_, rfl, fatalWith_raiseFatal _ _, fun hforce => hforce ▸ throttle_of_illegal s' he⟩

/-! ### The cycle counter (R140) -/

/-- From s to t the cycle counter grows by 1 if t is RUNNING, and stands if it is not. -/
def CountsIfRunning (s t : State) : Prop :=
  (t.run = .running → t.cycles = s.cycles + 1) ∧ (t.run ≠ .running → t.cycles = s.cycles)

section
variable {s t : State}

theorem countsIfRunning_of_running (hr : t.run = .running) (hc : t.cycles = s.cycles + 1) : CountsIfRunning s t :=
  ⟨fun _ => hc, fun h => absurd hr h⟩

theorem countsIfRunning_of_not_running (hr : t.run ≠ .running) (hc : t.cycles = s.cycles) : CountsIfRunning s t :=
  ⟨fun h => absurd h hr, fun _ => hc⟩

theorem countsIfRunning_raiseFatal (s : State) (d : Diagnostic) : CountsIfRunning s (s.raiseFatal d) :=
  countsIfRunning_of_not_running (by simp) rfl

/-- No instruction touches the counter itself; the line after execute counts it if the core is still RUNNING. -/
theorem runWord_countsIfRunning {op : Word} (h : s.runWord op = .next t) : CountsIfRunning s t := by
  obtain ⟨_, _, rfl⟩ | ⟨i, u, _, hexec, ⟨hr, rfl⟩ | ⟨hr, rfl⟩⟩ := runWord_cases s h
  · exact countsIfRunning_raiseFatal s _
  · exact countsIfRunning_of_running hr (congrArg (· + 1) (exec_effects hexec).cycles)
  · exact countsIfRunning_of_not_running hr (exec_effects hexec).cycles

/-- A check that ends the wait counts FX0A; one that leaves the core waiting does not. -/
theorem resumeWait_countsIfRunning {x : RegIdx} {tEnd : Option Nat} (hr : s.run = .waitingKey x tEnd) :
    CountsIfRunning s (s.resumeWait x tEnd) := by
  have hwait : s.run ≠ .running := by simp [hr]
  obtain ⟨_, _, _, h⟩ | ⟨_, _, _, _, h⟩ | ⟨_, _, h⟩ | ⟨_, _, _, _, h⟩ | ⟨_, _, _, _, h⟩ :=
    resumeWait_cases s x tEnd <;> rw [h]
  · exact countsIfRunning_of_running rfl rfl
  · exact countsIfRunning_of_not_running hwait rfl
  · exact countsIfRunning_of_not_running hwait rfl
  · exact countsIfRunning_of_not_running hwait rfl
  · exact countsIfRunning_of_running rfl rfl

theorem coreStep_countsIfRunning {forceSync : Bool} (h : s.coreStep forceSync = .next t) : CountsIfRunning s t := by
  obtain ⟨_, _, rfl⟩ | ⟨op, _, _, hword⟩ | ⟨x, tEnd, hr, rfl⟩ := coreStep_cases s h
  · exact countsIfRunning_raiseFatal s _
  · have hcount := runWord_countsIfRunning hword
    rwa [CountsIfRunning, throttle_cycles] at hcount
  · exact resumeWait_countsIfRunning hr

end

/-- Settles O9, from what each of the core's moves adds to the counter. -/
theorem completedInstructionsCountOnce : Obligations.CompletedInstructionsCountOnce := by
  intro forceSync s s' t hnext hstep
  have hcount : CountsIfRunning s' t := coreStep_countsIfRunning (coreStep_of_step hnext hstep)
  rwa [CountsIfRunning, hnext.cycles] at hcount

/-! ### Where an instruction leaves PC (R136 to R139) -/

theorem zext12_toNat (nnn : Addr12) : (zext12 nnn).toNat = nnn.toNat :=
  BitVec.toNat_setWidth_of_le (by decide)

theorem zext8_toNat (b : Byte) : (zext8 b).toNat = b.toNat :=
  BitVec.toNat_setWidth_of_le (by decide)

@[simp] theorem advanceIndex_PC (s : State) (x : RegIdx) : (s.advanceIndex x).PC = s.PC := by
  rw [advanceIndex_spec, setI_PC]

@[simp] theorem drawSprite_PC (s : State) (rows : List Byte) (x y : Byte) : (s.drawSprite rows x y).1.PC = s.PC := by
  rw [drawSprite_only]

theorem normalStep_of_PC {s t : State} (h : t.PC = s.PC + 2#16) : NormalStep s t := by
  rw [NormalStep, h, BitVec.toNat_add]
  rfl

/-- A skip adds 2 or 4 (R137). -/
theorem skipIf_PC_toNat (s : State) (c : Bool) :
    (s.skipIf c).PC.toNat = (s.PC.toNat + 2) % 65536 ∨ (s.skipIf c).PC.toNat = (s.PC.toNat + 4) % 65536 := by
  rw [skipIf_spec, setPC_PC, BitVec.toNat_add]
  cases c
  · exact .inl rfl
  · exact .inr rfl

section
variable {s t : State}

/-- An instruction that ends RUNNING no more, by a fatal error or a wait, leaves PC (R138, R139). -/
theorem exec_PC_of_not_running {i : Instr} (hr : s.run = .running) (h : exec i s = .next t) (ht : t.run ≠ .running) :
    t.PC = s.PC := by
  obtain hrun | ⟨_, _, _, _, _, hpc⟩ | ⟨_, hpc, _⟩ := (exec_effects h).run
  · exact absurd (hrun.trans hr) ht
  · exact hpc
  · exact hpc

/-- 00EE stays on an empty stack and else goes past the popped address (R332). -/
theorem execRet_PC (h : execRet s = .next t) :
    (s.stack = [] ∧ t.PC = s.PC) ∨ ∃ a, s.stack.head? = some a ∧ t.PC.toNat = (a.toNat + 2) % 65536 := by
  unfold execRet at h
  split at h <;> injection h with h <;> subst h
  · next hs => exact .inl ⟨hs, rfl⟩
  · next a rest hs => exact .inr ⟨a, by rw [hs, List.head?_cons], by rw [setPC_PC, BitVec.toNat_add]; rfl⟩

/-- 0NNN that leaves the core RUNNING is the no-op (R331). -/
theorem execSys_PC {nnn : Addr12} (h : execSys nnn s = .next t) (ht : t.run = .running) : t.PC = s.PC + 2#16 := by
  unfold execSys at h
  split at h <;> injection h with h <;> subst h
  · rfl
  · simp at ht

/-- 2NNN that leaves the core RUNNING has jumped (R334). -/
theorem execCall_PC {nnn : Addr12} (h : execCall nnn s = .next t) (ht : t.run = .running) : t.PC = zext12 nnn := by
  unfold execCall at h
  split at h <;> injection h with h <;> subst h
  · simp at ht
  · rfl

/-- FX0A never leaves the core RUNNING (R249). -/
theorem execLdVxK_not_running {x : RegIdx} (h : execLdVxK x s = .next t) : t.run ≠ .running := by
  injection h with h
  subst h
  simp

/-- DXYN advances, with its read in range or out of it, its draw accepted or rejected (R212 to R214). -/
theorem execDrw_PC {x y : RegIdx} {n : Nibble} (h : execDrw x y n s = .next t) : t.PC = s.PC + 2#16 := by
  unfold execDrw at h
  split at h <;> injection h with h <;> subst h <;> simp

/-- FX33 advances, with its write in range or out of it (R304). -/
theorem execLdB_PC {x : RegIdx} (h : execLdB x s = .next t) : t.PC = s.PC + 2#16 := by
  unfold execLdB at h
  split at h <;> injection h with h <;> subst h
  · rfl
  · next hwrite => rw [advance_PC, (memWrite_spec hwrite).2]

/-- FX55 advances, with its write in range or out of it (R305). -/
theorem execLdMemVx_PC {x : RegIdx} (h : execLdMemVx x s = .next t) : t.PC = s.PC + 2#16 := by
  unfold execLdMemVx at h
  split at h <;> injection h with h <;> subst h
  · rfl
  · next hwrite => rw [advance_PC, advanceIndex_PC, (memWrite_spec hwrite).2]

/-- FX65 advances, with its read in range or out of it (R306). -/
theorem execLdVxMem_PC {x : RegIdx} (h : execLdVxMem x s = .next t) : t.PC = s.PC + 2#16 := by
  unfold execLdVxMem at h
  split at h <;> injection h with h <;> subst h <;> simp

end

/-- Settles O10: the forms that jump, skip, or can fail by their own lemmas, and every other form by its advance. -/
theorem pcAdvancesByTwoPerNormalStep : Obligations.PcAdvancesByTwoPerNormalStep := by
  intro i s t hr h
  refine ⟨exec_PC_of_not_running hr h, fun ht => ?_⟩
  cases i <;> simp only [exec] at h ⊢
  case ret => exact execRet_PC h
  case sys => exact normalStep_of_PC (execSys_PC h ht)
  case call nnn => rw [execCall_PC h ht, zext12_toNat]
  case ldVxK => exact absurd ht (execLdVxK_not_running h)
  case drw => exact normalStep_of_PC (execDrw_PC h)
  case ldB => exact normalStep_of_PC (execLdB_PC h)
  case ldMemVx => exact normalStep_of_PC (execLdMemVx_PC h)
  case ldVxMem => exact normalStep_of_PC (execLdVxMem_PC h)
  all_goals
    injection h with h
    subst h
  case jp nnn => exact zext12_toNat nnn
  case jpV0 nnn => rw [setPC_PC, BitVec.toNat_add, zext12_toNat, zext8_toNat]
  case seImm | sneImm | seReg | sneReg | skp | sknp => exact skipIf_PC_toNat s _
  all_goals exact normalStep_of_PC (by simp)

end Sys2Proof.Machine

/-! # The ALU instructions (41_alu.md)

Every ALU instruction is a normal step over one of two operations: a register write, or setWithFlag's write of a result
and its flag. What each operation leaves unchanged is said once; an instruction adds its decoding and its value. -/

namespace Sys2Proof.Machine

/-! ### An instruction that writes one register -/

section
variable (s : State) (x : RegIdx) (v : Byte)

theorem setReg_sameRegsBut : SameRegsBut [x] s (s.setReg x v) :=
  fun r hr => setReg_reg_of_ne s x r v (List.ne_of_not_mem_cons hr)

/-- A register write and the advance: no other register, PC by 2, and nothing else. -/
theorem setReg_advance_frame :
    SameRegsBut [x] s (s.setReg x v).advance ∧ NormalStep s (s.setReg x v).advance ∧
      OnlyRegsPC s (s.setReg x v).advance :=
  ⟨setReg_sameRegsBut s x v, normalStep_of_PC rfl, rfl, fun _ => rfl⟩

theorem setReg_advance_reg : (s.setReg x v).advance.reg x = v := by simp

end

/-- Settles O22: one register write, of the immediate. -/
theorem ldImmLoadsTheImmediate : Obligations.LdImmLoadsTheImmediate := fun x nn s =>
  ⟨Laws.RoundTrip.ldImm x nn rfl, _, rfl, setReg_advance_reg s x nn, setReg_advance_frame s x nn⟩

/-- Settles O23: the sum of bytes is the sum of numbers modulo 256. -/
theorem addImmWrapsWithoutFlag : Obligations.AddImmWrapsWithoutFlag := fun x nn s =>
  ⟨Laws.RoundTrip.addImm x nn rfl, _, rfl, by rw [setReg_advance_reg, BitVec.toNat_add], setReg_advance_frame s x _⟩

/-- Settles O24: one register write, of the byte read from VY. -/
theorem ldRegCopiesTheRegister : Obligations.LdRegCopiesTheRegister := fun x y s =>
  ⟨Laws.RoundTrip.ldReg x y rfl, _, rfl, setReg_advance_reg s x _, setReg_advance_frame s x _⟩

/-- Settles O25: VX takes a bitwise combination, read bit by bit, and the frame leaves VF. -/
theorem logicInstructionsWorkBitByBit : Obligations.LogicInstructionsWorkBitByBit := by
  refine fun x y s => ⟨⟨Laws.RoundTrip.orReg x y rfl, _, rfl, fun b => ?or, setReg_advance_frame s x _⟩,
    ⟨Laws.RoundTrip.andReg x y rfl, _, rfl, fun b => ?and, setReg_advance_frame s x _⟩,
    ⟨Laws.RoundTrip.xorReg x y rfl, _, rfl, fun b => ?xor, setReg_advance_frame s x _⟩⟩
  case or => rw [setReg_advance_reg, BitVec.getLsbD_or]
  case and => rw [setReg_advance_reg, BitVec.getLsbD_and]
  case xor => rw [setReg_advance_reg, BitVec.getLsbD_xor]

/-- Settles O31: the draw moves the random source's counter alone, so the write is framed as a write after the draw. -/
theorem rndMasksAFreeByte : Obligations.RndMasksAFreeByte := by
  intro x nn s
  obtain ⟨hregs, hstep, -, hmem⟩ := setReg_advance_frame s.randomRead x (s.rand8 &&& nn)
  exact ⟨Laws.RoundTrip.rnd x nn rfl, _, rfl, fun b => by rw [setReg_advance_reg, BitVec.getLsbD_and],
    hregs, hstep, rfl, hmem⟩

/-! ### An instruction that writes a result and its flag (R160, R175) -/

section
variable (s : State) (x : RegIdx) (r : Byte) (f : Bool)

theorem setWithFlag_sameRegsBut : SameRegsBut [x, vf] s (s.setWithFlag x r f) := by
  intro q hq
  obtain ⟨hx, hvf⟩ : q ≠ x ∧ q ≠ vf := by simpa using hq
  obtain ⟨h, _⟩ | ⟨h, _⟩ := setWithFlag_spec s x r f
  · rw [h, setReg_reg_of_ne _ _ _ _ hvf, setReg_reg_of_ne _ _ _ _ hx]
  · rw [h, setReg_reg_of_ne _ _ _ _ hx, setReg_reg_of_ne _ _ _ _ hvf]

/-- With X ≠ F the order of the two writes does not show. -/
theorem setWithFlag_reg_of_ne (hx : x ≠ vf) :
    (s.setWithFlag x r f).reg x = r ∧ (s.setWithFlag x r f).reg vf = flagByte f := by
  obtain ⟨h, _⟩ | ⟨h, _⟩ := setWithFlag_spec s x r f <;> rw [h]
  · exact ⟨by rw [setReg_reg_of_ne _ _ _ _ hx, setReg_reg_self], setReg_reg_self _ _ _⟩
  · exact ⟨setReg_reg_self _ _ _, by rw [setReg_reg_of_ne _ _ _ _ hx.symm, setReg_reg_self]⟩

/-- Under FLAG_LAST VF holds the flag, whatever X is. -/
theorem setWithFlag_vf_of_flagLast (ho : s.cfg.vfOrder = .flagLast) :
    (s.setWithFlag x r f).reg vf = flagByte f := by
  simp [State.setWithFlag, ho]

/-- Under FLAG_FIRST VX holds the result, whatever X is. -/
theorem setWithFlag_reg_of_flagFirst (ho : s.cfg.vfOrder = .flagFirst) : (s.setWithFlag x r f).reg x = r := by
  simp [State.setWithFlag, ho]

theorem setWithFlag_writes : WritesResultAndFlag x r.toNat f s (s.setWithFlag x r f) := by
  refine ⟨fun hx => ?ne, fun _ ho => ?flagLast, fun hx ho => ?flagFirst, setWithFlag_sameRegsBut s x r f⟩
  case ne =>
    obtain ⟨hres, hflag⟩ := setWithFlag_reg_of_ne s x r f hx
    rw [hres, hflag, flagByte_toNat]
    exact ⟨rfl, rfl⟩
  case flagLast => rw [setWithFlag_vf_of_flagLast s x r f ho, flagByte_toNat]
  case flagFirst => rw [← hx, setWithFlag_reg_of_flagFirst s x r f ho]

/-- setWithFlag and the advance, with the result as a number n and the flag as a truth value c. -/
theorem setWithFlag_advance_spec {n : Nat} {c : Bool} (hr : r.toNat = n) (hf : f = c) :
    WritesResultAndFlag x n c s (s.setWithFlag x r f).advance ∧ NormalStep s (s.setWithFlag x r f).advance ∧
      OnlyRegsPC s (s.setWithFlag x r f).advance := by
  subst hr hf
  refine ⟨setWithFlag_writes s x r f, normalStep_of_PC (by simp), ?_⟩
  rw [setWithFlag_only]
  exact ⟨rfl, fun _ => rfl⟩

end

/-- A difference of bytes is the difference of numbers modulo 256, without going below 0. -/
theorem byte_sub_toNat (a b : Byte) : (a - b).toNat = (a.toNat + 256 - b.toNat) % 256 := by
  rw [BitVec.toNat_sub]
  omega

theorem byte_shiftRight_one_toNat (a : Byte) : (a >>> 1).toNat = a.toNat / 2 := by
  rw [BitVec.toNat_ushiftRight, Nat.shiftRight_one]

theorem byte_shiftLeft_one_toNat (a : Byte) : (a <<< 1).toNat = 2 * a.toNat % 256 := by
  rw [BitVec.toNat_shiftLeft, Nat.shiftLeft_eq, Nat.mul_comm, pow_one]

/-- Settles O26: the carry is bit 8 of the sum. -/
theorem addRegSetsTheCarry : Obligations.AddRegSetsTheCarry := fun x y s =>
  ⟨Laws.RoundTrip.addReg x y rfl, _, rfl, setWithFlag_advance_spec s x _ _ (BitVec.toNat_add _ _) (carryOut_iff _ _)⟩

/-- Settles O27: the minuend is VX. -/
theorem subRegSetsNoBorrow : Obligations.SubRegSetsNoBorrow := fun x y s =>
  ⟨Laws.RoundTrip.subReg x y rfl, _, rfl, setWithFlag_advance_spec s x _ _ (byte_sub_toNat _ _) rfl⟩

/-- Settles O28: the minuend is VY. -/
theorem subnSetsNoBorrow : Obligations.SubnSetsNoBorrow := fun x y s =>
  ⟨Laws.RoundTrip.subn x y rfl, _, rfl, setWithFlag_advance_spec s x _ _ (byte_sub_toNat _ _) rfl⟩

section
variable {s : State}

theorem shiftSource_of_altShift (x y : RegIdx) (h : s.cfg.altShift = true) : s.shiftSource x y = s.reg x := if_pos h

theorem shiftSource_of_not_altShift (x y : RegIdx) (h : s.cfg.altShift = false) : s.shiftSource x y = s.reg y :=
  if_neg (by simp [h])

end

/-- Settles O29: the source is shiftSource's, and the bit shifted out is its remainder by 2. -/
theorem shrShiftsTheSourceRight : Obligations.ShrShiftsTheSourceRight := fun x y s =>
  ⟨Laws.RoundTrip.shr x y rfl, (s.shiftSource x y).toNat, _, fun h => by rw [shiftSource_of_altShift x y h],
    fun h => by rw [shiftSource_of_not_altShift x y h], rfl,
    setWithFlag_advance_spec s x _ _ (byte_shiftRight_one_toNat _) (shiftedOutRight_iff _)⟩

/-- Settles O30: the source is shiftSource's, and the bit shifted out says that it is at least 128. -/
theorem shlShiftsTheSourceLeft : Obligations.ShlShiftsTheSourceLeft := fun x y s =>
  ⟨Laws.RoundTrip.shl x y rfl, (s.shiftSource x y).toNat, _, fun h => by rw [shiftSource_of_altShift x y h],
    fun h => by rw [shiftSource_of_not_altShift x y h], rfl,
    setWithFlag_advance_spec s x _ _ (byte_shiftLeft_one_toNat _) (shiftedOutLeft_iff _)⟩

end Sys2Proof.Machine

/-! # The display (42_display.md)

What an accepted and a rejected draw give, one pixel at a time; what 00E0 and DXYN do with the screen and leave of the
rest; and a snapshot's move. -/

namespace Sys2Proof.Machine

/-! ### An accepted draw, pixel by pixel (R202, R204 to R208) -/

section
variable {wrap : Bool} {rows : List Byte} (x y : Byte) (g : Grid) (hlen : rows.length ≤ 15)
include hlen

/-- A draw flips the pixels its sprite covers, each once (R207), and no other. -/
theorem drawOn_at (p : Fin 64 × Fin 32) :
    (Covers wrap rows (x.toNat % 64) (y.toNat % 32) p → (drawOn wrap rows x y g).1.at p = !g.at p) ∧
      (¬Covers wrap rows (x.toNat % 64) (y.toNat % 32) p → (drawOn wrap rows x y g).1.at p = g.at p) := by
  have hflip := flipAll_at g p (spriteTargets_nodup (wrap := wrap) (x := x.toNat % 64) (y := y.toNat % 32)
    (hlen.trans (by decide))) false
  rw [← mem_spriteTargets, drawOn, hflip]
  exact ⟨fun hp => by simp [hp], fun hp => by simp [hp]⟩

/-- A draw's collision is a pixel turned off: one that was on and that the sprite covers (R207, R208). -/
theorem drawOn_collision :
    (drawOn wrap rows x y g).2 = true ↔ ∃ p, g.at p = true ∧ (drawOn wrap rows x y g).1.at p = false := by
  rw [drawOn, flipAll_collision g (spriteTargets_nodup (hlen.trans (by decide))) false, ← drawOn]
  simp only [Bool.false_eq_true, false_or, mem_spriteTargets]
  refine exists_congr fun p => ?_
  obtain ⟨hcovered, huncovered⟩ := drawOn_at (wrap := wrap) x y g hlen p
  constructor
  · rintro ⟨hp, hon⟩
    exact ⟨hon, by rw [hcovered hp, hon, Bool.not_true]⟩
  · rintro ⟨hon, hoff⟩
    by_contra hp
    have hstands := huncovered fun hc => hp ⟨hc, hon⟩
    simp [hoff, hon] at hstands

end

/-! ### The two outcomes of drawSprite (R203) -/

theorem startOutside_iff (x y : Byte) : startOutside x y = true ↔ 64 ≤ x.toNat ∨ 32 ≤ y.toNat := by
  simp [startOutside]

section
variable (s : State) (rows : List Byte) (x y : Byte)

theorem drawSprite_of_rejected (hout : 64 ≤ x.toNat ∨ 32 ≤ y.toNat) (hcfg : s.cfg.screenOob = .reject) :
    s.drawSprite rows x y = (s.logDiag (.drawRejected x y), false) := by
  obtain ⟨_, _, h⟩ | ⟨hin | hwrap, _⟩ := drawSprite_spec s rows x y
  · exact h
  · exact absurd ((startOutside_iff x y).mpr hout) (by simp [hin])
  · simp [hcfg] at hwrap

theorem drawSprite_of_accepted (h : (x.toNat < 64 ∧ y.toNat < 32) ∨ s.cfg.screenOob = .wrap) :
    s.drawSprite rows x y =
      ({ s with pixel := (drawOn s.cfg.screenWrap rows x y s.pixel).1, modified := true },
        (drawOn s.cfg.screenWrap rows x y s.pixel).2) := by
  obtain ⟨hout, hreject, _⟩ | ⟨_, hdraw⟩ := drawSprite_spec s rows x y
  · rw [startOutside_iff] at hout
    obtain ⟨hx, hy⟩ | hwrap := h
    · omega
    · simp [hreject] at hwrap
  · exact hdraw

/-- A draw leaves the registers (R202). -/
@[simp] theorem drawSprite_reg (q : RegIdx) : (s.drawSprite rows x y).1.reg q = s.reg q := by
  rw [drawSprite_only]
  rfl

/-- A draw leaves memory (R202). -/
@[simp] theorem drawSprite_readByte (a : Nat) : readByte (s.drawSprite rows x y).1 a = readByte s a := by
  rw [drawSprite_only]
  rfl

end

/-- Settles O57: an accepted draw is drawOn's grid and collision, a rejected one a record. -/
theorem drawFlipsTheCoveredPixels : Obligations.DrawFlipsTheCoveredPixels := by
  intro rows x y s hlen
  refine ⟨fun ⟨hout, hcfg⟩ => drawSprite_of_rejected s rows x y hout hcfg, fun haccepted => ?_⟩
  exact ⟨_, _, drawSprite_of_accepted s rows x y haccepted, rfl, drawOn_at x y s.pixel hlen,
    drawOn_collision x y s.pixel hlen⟩

/-! ### DXYN (R212 to R214) -/

/-- A record and the advance: PC by 2, one record more, and nothing else. -/
theorem logDiag_advance_frame (s : State) (d : Diagnostic) :
    NormalStep s (s.logDiag d).advance ∧ OnlyPCAndRecord d s (s.logDiag d).advance :=
  ⟨normalStep_of_PC rfl, rfl, fun _ => rfl⟩

section
variable (s : State) (x y : RegIdx) (n : Nibble)

theorem execDrw_of_read {rows : List Byte} (h : memRead s s.I.toNat n.toNat = some rows) :
    execDrw x y n s = .next (((s.drawSprite rows (s.reg x) (s.reg y)).1.setCollision
      (s.drawSprite rows (s.reg x) (s.reg y)).2).advance) := by
  simp only [execDrw, h]

theorem execDrw_of_out_of_range (h : memSize < s.I.toNat + n.toNat) :
    execDrw x y n s = .next (s.logDiag (.memOutOfRange s.I n.toNat)).advance := by
  simp only [execDrw, memRead_eq_none h]

end

/-- Settles O58: the rows are the bytes of the read, and the collision is one register write after the draw. -/
theorem drawReadsTheSpriteAtI : Obligations.DrawReadsTheSpriteAtI := by
  intro x y n s
  refine ⟨Laws.RoundTrip.drw x y n rfl, rfl, fun hrange => ?inRange, fun hrange => ?outOfRange⟩
  case inRange =>
    have hread := memRead_eq_some (s := s) hrange
    refine ⟨_, _, _, by simp, fun j hj => readByte_of_memRead hread hj, rfl, execDrw_of_read s x y n hread,
      ?collision, fun r hr => ?others, normalStep_of_PC (by simp), rfl, fun a => by simp⟩
    case collision => rw [advance_reg, State.setCollision, setReg_reg_self, flagByte_toNat]
    case others =>
      rw [advance_reg, State.setCollision, setReg_sameRegsBut _ _ _ r hr, drawSprite_reg]
  case outOfRange => exact ⟨_, execDrw_of_out_of_range s x y n hrange, logDiag_advance_frame s _⟩

/-! ### 00E0 (R201, R211) -/

/-- Settles O56: the grid after clear() is the blank one. -/
theorem clearTurnsEveryPixelOff : Obligations.ClearTurnsEveryPixelOff := fun s =>
  ⟨Laws.RoundTrip.cls rfl, rfl, s.clearScreen.advance, rfl, fun p => Grid.at_blank p, rfl, normalStep_of_PC rfl, rfl,
    fun _ => rfl⟩

/-! ### A snapshot (R209) -/

/-- The first listed move of a machine that is not HALTED is taken off the list and made (log 7). -/
theorem step_of_schedule_cons {s : State} {m : Move} {rest : List Move} (hr : ∀ status, s.run ≠ .halted status)
    (hs : s.schedule = m :: rest) : step s = (s.setSchedule rest).move m := by
  cases hrun : s.run with
  | halted status => exact absurd hrun (hr status)
  | running | waitingKey => simp only [step, hrun, hs]

/-- Settles O60: the step is the snapshot's, and consumeFlag says whether it writes the modified flag. -/
theorem snapshotCopiesAndConsumes : Obligations.SnapshotCopiesAndConsumes := by
  refine ⟨fun _ _ => rfl, fun s consume rest hr hs => ⟨_, step_of_schedule_cons hr hs, ?_, ?_⟩⟩
  · rintro rfl
    rfl
  · rintro rfl
    rfl

end Sys2Proof.Machine

/-! # The keypad (43_keyboard.md)

A conditional skip as a rule over its condition, and the two instructions that skip on a key. -/

namespace Sys2Proof.Machine

/-! ### A conditional skip (R137) -/

/-- A skip whose Boolean test decides cond: PC by 4 when cond holds, by 2 when it does not, and nothing else. -/
theorem skipIf_skipsWhen (s : State) {c : Bool} {cond : Prop} (hc : c = true ↔ cond) :
    SkipsWhen cond s (s.skipIf c) ∧ OnlyPC s (s.skipIf c) := by
  rw [skipIf_spec]
  refine ⟨⟨fun h => ?taken, fun h => ?notTaken⟩, rfl, fun _ => rfl⟩
  case taken => rw [setPC_PC, if_pos (hc.mpr h), BitVec.toNat_add]; rfl
  case notTaken => rw [setPC_PC, if_neg (mt hc.mp h), BitVec.toNat_add]; rfl

/-! ### EX9E and EXA1 (R247, R248) -/

theorem not_isPressed_iff (s : State) (k : Nat) : (!s.isPressed k) = true ↔ ¬KeyDown s k := by
  rw [Bool.not_eq_true', ← isPressed_iff, Bool.not_eq_true]

/-- Settles O52: each instruction is a skip on isPressed, which decides KeyDown for every key number, above 15 too. -/
theorem keySkipsTestTheKey : Obligations.KeySkipsTestTheKey := fun x s =>
  ⟨⟨Laws.RoundTrip.skp x rfl, rfl, _, rfl, skipIf_skipsWhen s (isPressed_iff s _)⟩,
    ⟨Laws.RoundTrip.sknp x rfl, rfl, _, rfl, skipIf_skipsWhen s (not_isPressed_iff s _)⟩⟩

end Sys2Proof.Machine

/-! # The timers (44_timers.md)

The model rounds and divides in whole numbers where the rules divide rationals (R272, R273): the floors agree. An
instruction that reads the clock acts on the state after the reading, which is the old one but for the clock. -/

namespace Sys2Proof.Machine

/-! ### The rules' rational formulas (R271 to R273) -/

/-- R272's rounding: num / den + 1/2 is the fraction (2 num + den) / (2 den) whose floor roundHalfUp takes. -/
theorem roundHalfUp_eq_floor (num : ℤ) {den : ℕ} (h : 0 < den) :
    roundHalfUp num den = ⌊(num : ℚ) / den + 1 / 2⌋ := by
  have hfraction : (num : ℚ) / den + 1 / 2 = ((2 * num + den : ℤ) : ℚ) / ((2 * den : ℕ) : ℚ) := by
    push_cast
    field_simp
  rw [hfraction, Rat.floor_intCast_div_natCast, roundHalfUp]
  rfl

/-- R271: the sixtieths of a second from the clock reading to the deadline, rounded half up and held to 0..255. -/
theorem timerValue_eq_floor (d t : ℕ) :
    ((timerValue d t).toNat : ℤ) = min 255 (max 0 ⌊((d : ℚ) - t) * 60 / 1000000000 + 1 / 2⌋) := by
  have hround := roundHalfUp_eq_floor (((d : ℤ) - t) * 60) (den := 1000000000) (by decide)
  push_cast at hround
  rw [timerValue_toNat, hround, Int.toNat_of_nonneg (by omega)]

/-- R273: the deadline is the floor of n sixtieths of a second, in nanoseconds, after the clock reading. -/
theorem deadlineAfter_eq_floor (now : ℕ) (n : Byte) :
    (deadlineAfter now n : ℤ) = now + ⌊(n.toNat : ℚ) * 1000000000 / 60⌋ := by
  have hfloor := Rat.floor_natCast_div_natCast (1000000000 * n.toNat) 60
  push_cast at hfloor
  rw [deadlineAfter, mul_comm (n.toNat : ℚ), hfloor]
  rfl

/-! ### FX07, FX15 and FX18 (R277, R278, R280) -/

/-- Settles O47: a register write after the clock reading, framed as one, of the value at that reading. -/
theorem readDelayDerivesTheValue : Obligations.ReadDelayDerivesTheValue := by
  intro x s
  obtain ⟨hregs, hstep, -, hmem⟩ := setReg_advance_frame s.clockRead x (s.delayAt s.now)
  refine ⟨Laws.RoundTrip.ldVxDt x rfl, rfl, _, rfl, clock_le_now s, ?value, hregs, hstep, rfl, hmem⟩
  case value =>
    rw [setReg_advance_reg]
    exact timerValue_eq_floor s.delayDeadline s.now

/-- Settles O48: each instruction sets one deadline, from the clock reading, and the sound is on before its own. -/
theorem setTimersFixTheDeadline : Obligations.SetTimersFixTheDeadline := fun x s =>
  ⟨⟨Laws.RoundTrip.ldDtVx x rfl, rfl, _, rfl, clock_le_now s, deadlineAfter_eq_floor s.now (s.reg x),
      normalStep_of_PC rfl, rfl, fun _ => rfl⟩,
    ⟨Laws.RoundTrip.ldStVx x rfl, rfl, _, rfl, clock_le_now s, deadlineAfter_eq_floor s.now (s.reg x),
      normalStep_of_PC rfl, fun T => soundActive_iff T _, rfl, fun _ => rfl⟩⟩

end Sys2Proof.Machine

/-! # The index register and memory (45_index_memory.md)

An instruction that writes I alone is a normal step over setI. The three that move bytes between registers and memory
have one equation for an access in range and one for an access out of it; the advance of I after a block is
said once. -/

namespace Sys2Proof.Machine

/-! ### ANNN, FX1E and FX29 (R301 to R303) -/

/-- A write of I and the advance: PC by 2, and nothing else. -/
theorem setI_advance_frame (s : State) (v : Word) :
    NormalStep s (s.setI v).advance ∧ (s.setI v).advance = { s with I := v, PC := s.PC + 2#16 } ∧
      SameMemory s (s.setI v).advance :=
  ⟨normalStep_of_PC rfl, rfl, fun _ => rfl⟩

/-- The glyph address is that of the low nibble, modulo 65536 (R303). -/
theorem glyphAddress_toNat (s : State) (x : RegIdx) :
    (s.glyphAddress x).toNat = (s.cfg.fontBase.toNat + 5 * ((s.reg x).toNat % 16)) % 65536 := by
  have hnibble : (s.reg x &&& 0x0F#8).toNat = (s.reg x).toNat % 16 := by
    rw [BitVec.toNat_and]
    exact Nat.and_two_pow_sub_one_eq_mod _ 4
  rw [State.glyphAddress, BitVec.toNat_add, BitVec.toNat_ofNat, hnibble, Nat.add_mod_mod]

/-- Settles O40: each instruction is one write of I, of the address or of the sum of words. -/
theorem indexIsLoadedAndAdvanced : Obligations.IndexIsLoadedAndAdvanced := by
  refine ⟨fun nnn s => ⟨Laws.RoundTrip.ldI nnn rfl, rfl, _, rfl, zext12_toNat nnn, setI_advance_frame s _⟩,
    fun x s => ⟨Laws.RoundTrip.addI x rfl, rfl, _, rfl, ?sum, setI_advance_frame s _⟩⟩
  case sum => rw [advance_I, setI_I, BitVec.toNat_add, zext8_toNat]

/-- Settles O41: one write of I, of the glyph address. -/
theorem fontAddressUsesTheLowNibble : Obligations.FontAddressUsesTheLowNibble := fun x s =>
  ⟨Laws.RoundTrip.ldF x rfl, _, rfl, glyphAddress_toNat s x, setI_advance_frame s _⟩

/-! ### FX33 (R304) -/

/-- A decimal digit fits a byte. -/
theorem digit_toNat {d : Nat} (h : d < 10) : (BitVec.ofNat 8 d).toNat = d :=
  Nat.mod_eq_of_lt (by omega)

section
variable {s : State} {x : RegIdx}

theorem execLdB_of_in_range (h : s.I.toNat + 3 ≤ memSize) :
    execLdB x s =
      .next { s with mem := Memory.putRange s.cfg s.I.toNat (decimalDigits (s.reg x)) s.mem }.advance := by
  rw [execLdB, memWrite_eq_some (by rwa [decimalDigits_length])]

theorem execLdB_of_out_of_range (h : memSize < s.I.toNat + 3) :
    execLdB x s = .next (s.logDiag (.memOutOfRange s.I 3)).advance := by
  rw [execLdB, memWrite_eq_none (by rwa [decimalDigits_length])]

end

/-- Settles O42: the digits are the bytes of the one write, each read back at its place. -/
theorem storeDigitsWritesThreeBytes : Obligations.StoreDigitsWritesThreeBytes := by
  intro x s
  refine ⟨Laws.RoundTrip.ldB x rfl, fun hw hrange => ?inRange, fun hrange => ?outOfRange⟩
  case inRange =>
    have hbyte := (s.reg x).isLt
    have hread : ∀ j (hj : j < 3), readByte
        { s with mem := Memory.putRange s.cfg s.I.toNat (decimalDigits (s.reg x)) s.mem }.advance (s.I.toNat + j) =
          some ((decimalDigits (s.reg x))[j]'hj) := fun j hj => readByte_of_putRange hw hrange (by rfl) (by rfl) hj
    exact ⟨_, execLdB_of_in_range hrange, ⟨_, _, _, hread 0 (by decide), hread 1 (by decide), hread 2 (by decide),
      digit_toNat (by omega), digit_toNat (by omega), digit_toNat (by omega)⟩,
      sameMemoryOutside_of_putRange (bytes := decimalDigits (s.reg x)) rfl rfl, normalStep_of_PC rfl, rfl⟩
  case outOfRange => exact ⟨_, execLdB_of_out_of_range hrange, logDiag_advance_frame s _⟩

/-! ### FX55 and FX65 (R305, R306) -/

/-- The advance of I after a block is one write of I: by X+1 modulo 65536, or of I itself under ALT_INDEX. -/
theorem advanceIndex_eq_setI (s : State) (x : RegIdx) :
    ∃ v, s.advanceIndex x = s.setI v ∧ (s.cfg.altIndex = false → v.toNat = (s.I.toNat + x.toNat + 1) % 65536) ∧
      (s.cfg.altIndex = true → v = s.I) := by
  refine ⟨_, advanceIndex_spec s x, fun halt => ?grown, fun halt => if_pos halt⟩
  case grown =>
    rw [halt, if_neg Bool.false_ne_true, BitVec.toNat_add, BitVec.toNat_ofNat, Nat.add_mod_mod, blockLen,
      Nat.add_assoc]

section
variable {s : State} {x : RegIdx}

/-- In the block V0..VX the byte for a register is that register's. -/
theorem regsUpTo_getElem_toNat {r : RegIdx} (h : r.toNat < (s.regsUpTo x).length) :
    (s.regsUpTo x)[r.toNat] = s.reg r := by
  rw [regsUpTo_getElem s x h, BitVec.ofNat_toNat, BitVec.setWidth_eq]

theorem execLdMemVx_of_in_range (h : s.I.toNat + (x.toNat + 1) ≤ memSize) :
    execLdMemVx x s = .next (State.advanceIndex x
      { s with mem := Memory.putRange s.cfg s.I.toNat (s.regsUpTo x) s.mem }).advance := by
  rw [execLdMemVx, memWrite_eq_some (by rwa [regsUpTo_length])]

theorem execLdMemVx_of_out_of_range (h : memSize < s.I.toNat + (x.toNat + 1)) :
    execLdMemVx x s = .next (s.logDiag (.memOutOfRange s.I (x.toNat + 1))).advance := by
  rw [execLdMemVx, memWrite_eq_none (by rwa [regsUpTo_length]), blockLen]

theorem execLdVxMem_of_read {bytes : List Byte} (h : memRead s s.I.toNat (x.toNat + 1) = some bytes) :
    execLdVxMem x s = .next ((s.loadRegs bytes).advanceIndex x).advance := by
  rw [execLdVxMem, blockLen, h]

theorem execLdVxMem_of_out_of_range (h : memSize < s.I.toNat + (x.toNat + 1)) :
    execLdVxMem x s = .next (s.logDiag (.memOutOfRange s.I (x.toNat + 1))).advance := by
  rw [execLdVxMem, blockLen, memRead_eq_none h]

/-- A register that the bytes reach takes its byte. -/
theorem loadRegs_reg_of_lt {bytes : List Byte} (h : x.toNat < bytes.length) :
    (s.loadRegs bytes).reg x = bytes[x.toNat] := by
  rw [loadRegs_reg, List.getElem?_eq_getElem h, Option.getD_some]

/-- A register past the bytes stands. -/
theorem loadRegs_reg_of_ge {bytes : List Byte} (h : bytes.length ≤ x.toNat) :
    (s.loadRegs bytes).reg x = s.reg x := by
  rw [loadRegs_reg, List.getElem?_eq_none h, Option.getD_none]

end

/-- Settles O43: the block is one write of V0..VX, each register's byte read back at its place. -/
theorem storeRegistersWritesTheBlock : Obligations.StoreRegistersWritesTheBlock := by
  intro x s
  refine ⟨Laws.RoundTrip.ldMemVx x rfl, fun hw hrange => ?inRange, fun hrange => ?outOfRange⟩
  case inRange =>
    have hlen := regsUpTo_length s x
    obtain ⟨v, hv, hgrown, hkept⟩ := advanceIndex_eq_setI
      { s with mem := Memory.putRange s.cfg s.I.toNat (s.regsUpTo x) s.mem } x
    have hexec := execLdMemVx_of_in_range hrange
    rw [hv] at hexec
    refine ⟨_, hexec, fun r hr => ?stored, ?outside, hgrown, hkept, normalStep_of_PC rfl, rfl⟩
    case stored =>
      have hr' : r.toNat < (s.regsUpTo x).length := by omega
      rw [← regsUpTo_getElem_toNat hr']
      exact readByte_of_putRange hw (by rwa [hlen]) (by rfl) (by rfl) hr'
    case outside =>
      rw [← hlen]
      exact sameMemoryOutside_of_putRange rfl rfl
  case outOfRange => exact ⟨_, execLdMemVx_of_out_of_range hrange, logDiag_advance_frame s _⟩

/-- Settles O45: V0..VX take the bytes of the one read, and the registers above X lie past them. -/
theorem loadRegistersReadsTheBlock : Obligations.LoadRegistersReadsTheBlock := by
  intro x s
  refine ⟨Laws.RoundTrip.ldVxMem x rfl, fun hrange => ?inRange, fun hrange => ?outOfRange⟩
  case inRange =>
    obtain ⟨bytes, hread⟩ : ∃ bytes, memRead s s.I.toNat (x.toNat + 1) = some bytes := ⟨_, memRead_eq_some hrange⟩
    obtain ⟨-, hlen, -⟩ := memRead_spec hread
    obtain ⟨v, hv, hgrown, hkept⟩ := advanceIndex_eq_setI (s.loadRegs bytes) x
    have hexec := execLdVxMem_of_read hread
    rw [hv] at hexec
    refine ⟨_, hexec, fun r hr => ?loaded, fun r hr => ?others, hgrown, hkept, normalStep_of_PC rfl, rfl, fun _ => rfl⟩
    case loaded =>
      have hr' : r.toNat < bytes.length := by omega
      rw [advance_reg, setI_reg, loadRegs_reg_of_lt hr', readByte_of_memRead hread hr']
    case others => rw [advance_reg, setI_reg, loadRegs_reg_of_ge (by omega)]
  case outOfRange => exact ⟨_, execLdVxMem_of_out_of_range hrange, logDiag_advance_frame s _⟩

/-! ### FX55, then FX65 at the same address (R307) -/

/-- Settles O46 from the two blocks' rules: the load reads the bytes that the dump stored, and both move I alike. -/
theorem dumpThenLoadRestoresRegisters : Obligations.DumpThenLoadRestoresRegisters := by
  intro x s t between hw hrange hdump
  obtain ⟨-, hstore, -⟩ := storeRegistersWritesTheBlock x s
  obtain ⟨t', hdump', hstored, -, hgrown, hkept, -, hframe⟩ := hstore hw hrange
  obtain rfl : t = t' := Host.Outcome.next.inj (hdump.symm.trans hdump')
  have hcfg : t.cfg = s.cfg := by rw [hframe]
  obtain ⟨-, hreload, -⟩ := loadRegistersReadsTheBlock x { t with V := between, I := s.I }
  obtain ⟨u, hload, hloaded, -, hgrown', hkept', -⟩ := hreload hrange
  rw [hcfg] at hgrown' hkept'
  refine ⟨hkept, fun halt => ?grown, u, hload, fun r hr => ?restored, ?index⟩
  case grown =>
    rw [hgrown halt]
    exact Nat.mod_eq_of_lt (by omega)
  case restored => exact Option.some.inj ((hloaded r hr).symm.trans (hstored r hr))
  case index =>
    cases halt : s.cfg.altIndex with
    | true => rw [hkept halt, hkept' halt]
    | false => exact BitVec.eq_of_toNat_eq ((hgrown' halt).trans (hgrown halt).symm)

end Sys2Proof.Machine

/-! # Control transfer (46_control.md)

0NNN, 00EE and 2NNN have one equation for each of their outcomes. A jump is one write of PC; the conditional skips are
skipIf on a decided comparison. -/

namespace Sys2Proof.Machine

/-! ### 0NNN (R331) -/

section
variable {s : State} {nnn : Addr12}

/-- A SYS that is neither CLS's word nor RET's has an instruction word. -/
theorem wellFormed_sys (hcls : nnn ≠ 0x0E0#12) (hret : nnn ≠ 0x0EE#12) : (Instr.sys nnn).wellFormed = true := by
  simp [Instr.wellFormed, hcls, hret]

theorem execSys_of_nop (h : s.cfg.sysMode = .nop) : execSys nnn s = .next s.advance := by
  simp only [execSys, h]

theorem execSys_of_fatal (h : s.cfg.sysMode = .fatal) :
    execSys nnn s = .next (s.raiseFatal (.illegalOpcode (encode (.sys nnn)) s.PC s.cycles)) := by
  simp only [execSys, h]

end

/-- Settles O32: SYS_MODE chooses between the advance alone and the fatal error. -/
theorem sysIsANoOpOrFatal : Obligations.SysIsANoOpOrFatal := by
  intro nnn s hcls hret
  refine ⟨Laws.RoundTrip.sys nnn (wellFormed_sys hcls hret), fun hmode => ?nop, fun hmode => ?fatal⟩
  case nop => exact ⟨_, execSys_of_nop hmode, normalStep_of_PC rfl, rfl, fun _ => rfl⟩
  case fatal => exact ⟨_, execSys_of_fatal hmode, fatalWith_raiseFatal s _⟩

/-! ### 00EE (R332) -/

section
variable {s : State}

theorem execRet_of_empty (h : s.stack = []) : execRet s = .next (s.logDiag (.stackUnderflow s.PC)) := by
  simp only [execRet, h]

theorem execRet_of_cons {a : Word} {rest : List Word} (h : s.stack = a :: rest) :
    execRet s = .next ((s.setStack rest).setPC (a + 2#16)) := by
  simp only [execRet, h]

end

/-- Settles O33: an empty stack gives the record alone, any other the pop and the jump past the popped address. -/
theorem retPopsOrLeavesPc : Obligations.RetPopsOrLeavesPc := by
  refine fun s => ⟨Laws.RoundTrip.ret rfl, fun hempty => ?underflow, fun a rest hcons => ?pop⟩
  case underflow => exact ⟨_, execRet_of_empty hempty, rfl, rfl, fun _ => rfl⟩
  case pop => exact ⟨_, execRet_of_cons hcons, BitVec.toNat_add a 2#16, rfl, fun _ => rfl⟩

/-! ### 1NNN and BNNN (R333, R335) -/

theorem setPC_onlyPC (s : State) (target : Word) : OnlyPC s (s.setPC target) := ⟨rfl, fun _ => rfl⟩

/-- The sum of a 12-bit address and a byte is taken modulo 65536, with no mask to 12 bits (R335). -/
theorem zext12_add_zext8_toNat (nnn : Addr12) (b : Byte) :
    (zext12 nnn + zext8 b).toNat = (nnn.toNat + b.toNat) % 65536 := by
  rw [BitVec.toNat_add, zext12_toNat, zext8_toNat]

/-- Settles O34: each jump is one write of PC. -/
theorem jumpsSetPc : Obligations.JumpsSetPc := fun nnn s =>
  ⟨⟨Laws.RoundTrip.jp nnn rfl, _, rfl, zext12_toNat nnn, setPC_onlyPC s _⟩,
    ⟨Laws.RoundTrip.jpV0 nnn rfl, _, rfl, zext12_add_zext8_toNat nnn _, setPC_onlyPC s _⟩⟩

/-! ### 2NNN (R334) -/

section
variable {s : State} {nnn : Addr12}

theorem execCall_of_not_full (h : s.cfg.stackLimit ≠ some s.stack.length) :
    execCall nnn s = .next ((s.setStack (s.PC :: s.stack)).setPC (zext12 nnn)) :=
  if_neg (mt (stackFull_iff s).mp h)

theorem execCall_of_full (h : s.cfg.stackLimit = some s.stack.length) :
    execCall nnn s = .next (s.raiseFatal (.stackOverflow (encode (.call nnn)) s.PC s.cycles)) :=
  if_pos ((stackFull_iff s).mpr h)

end

/-- Settles O35: stackFull chooses between the push with the jump and the fatal error. -/
theorem callPushesItsAddress : Obligations.CallPushesItsAddress := by
  refine fun nnn s => ⟨Laws.RoundTrip.call nnn rfl, fun hfree => ?push, fun hfull => ?overflow⟩
  case push => exact ⟨_, execCall_of_not_full hfree, zext12_toNat nnn, rfl, rfl, fun _ => rfl⟩
  case overflow => exact ⟨_, execCall_of_full hfull, fatalWith_raiseFatal s _⟩

/-! ### 3XNN, 4XNN, 5XY0 and 9XY0 (R336 to R339) -/

/-- Settles O36: each instruction is a skip on the decided comparison of VX with NN. -/
theorem immediateSkipsCompare : Obligations.ImmediateSkipsCompare := fun x nn s =>
  ⟨⟨Laws.RoundTrip.seImm x nn rfl, _, rfl, skipIf_skipsWhen s decide_eq_true_iff⟩,
    ⟨Laws.RoundTrip.sneImm x nn rfl, _, rfl, skipIf_skipsWhen s decide_eq_true_iff⟩⟩

/-- Settles O37: each instruction is a skip on the decided comparison of VX with VY. -/
theorem registerSkipsCompare : Obligations.RegisterSkipsCompare := fun x y s =>
  ⟨⟨Laws.RoundTrip.seReg x y rfl, _, rfl, skipIf_skipsWhen s decide_eq_true_iff⟩,
    ⟨Laws.RoundTrip.sneReg x y rfl, _, rfl, skipIf_skipsWhen s decide_eq_true_iff⟩⟩

end Sys2Proof.Machine

/-! # The decoder (30_encoding.md)

Each arm of the decoder knows the fields it has tested, and a word is its fields: so a decoded instruction's encoding is
the word, and a rejected word is in the class its arm tests. -/

namespace Sys2Proof

/-! ### A word by the fields it has been tested for (R101, R102) -/

section
variable {op : Word} {t : Nibble} (ht : (fieldT op).toNat = t.toNat)
include ht

theorem formA_of_fields : formA t (fieldNNN op) = op := by
  rw [← BitVec.eq_of_toNat_eq ht, formA_fields]

theorem formXNN_of_fieldT : formXNN t (fieldX op) (fieldNN op) = op := by
  rw [← BitVec.eq_of_toNat_eq ht, formXNN_fields]

theorem formXYN_of_fieldT : formXYN t (fieldX op) (fieldY op) (fieldN op) = op := by
  rw [← BitVec.eq_of_toNat_eq ht, formXYN_fields]

theorem formXNN_of_fields {nn : Byte} (hnn : (fieldNN op).toNat = nn.toNat) : formXNN t (fieldX op) nn = op := by
  rw [← BitVec.eq_of_toNat_eq hnn, formXNN_of_fieldT ht]

theorem formXYN_of_fields {n : Nibble} (hn : (fieldN op).toNat = n.toNat) :
    formXYN t (fieldX op) (fieldY op) n = op := by
  rw [← BitVec.eq_of_toNat_eq hn, formXYN_of_fieldT ht]

end

/-! ### What a decoded word is (R104, R105) -/

/-- i stands for an instruction word, and op is that word. -/
def Instr.IsWord (i : Instr) (op : Word) : Prop := i.wellFormed = true ∧ encode i = op

section
variable {op : Word} {i : Instr}

theorem decode0_isWord (ht : (fieldT op).toNat = (0x0#4).toNat) : (decode0 op).IsWord op := by
  unfold decode0
  split
  · next hcls => exact ⟨rfl, hcls.symm⟩
  · next hcls =>
    split
    · next hret => exact ⟨rfl, hret.symm⟩
    · next hret =>
      have hword := formA_of_fields ht
      have hne : ∀ nnn, op ≠ formA 0x0#4 nnn → fieldNNN op ≠ nnn := fun nnn h e => h (e ▸ hword.symm)
      refine ⟨?_, hword⟩
      simp only [Instr.wellFormed, Bool.and_eq_true, decide_eq_true_eq]
      exact ⟨hne _ hcls, hne _ hret⟩

theorem decode8_isWord (ht : (fieldT op).toNat = (0x8#4).toNat) (h : decode8 op = .ok i) : i.IsWord op := by
  unfold decode8 at h
  split at h <;> cases h
  all_goals next hn => exact ⟨rfl, formXYN_of_fields ht hn⟩

theorem decodeE_isWord (ht : (fieldT op).toNat = (0xE#4).toNat) (h : decodeE op = .ok i) : i.IsWord op := by
  unfold decodeE at h
  split at h <;> cases h
  all_goals next hnn => exact ⟨rfl, formXNN_of_fields ht hnn⟩

theorem decodeF_isWord (ht : (fieldT op).toNat = (0xF#4).toNat) (h : decodeF op = .ok i) : i.IsWord op := by
  unfold decodeF at h
  split at h <;> cases h
  all_goals next hnn => exact ⟨rfl, formXNN_of_fields ht hnn⟩

/-- Every instruction the decoder gives is well-formed, and its encoding is the word. -/
theorem decodeWord_isWord (h : decodeWord op = .ok i) : i.IsWord op := by
  unfold decodeWord at h
  split at h
  case h_1 ht => injection h with h; exact h ▸ decode0_isWord ht
  case h_9 ht => exact decode8_isWord ht h
  case h_15 ht => exact decodeE_isWord ht h
  case h_16 =>
    have hlt := (fieldT op).isLt
    simp only [imp_false] at *
    exact decodeF_isWord (by simp only [BitVec.toNat_ofNat]; omega) h
  case h_6 ht | h_10 ht =>
    split at h <;> cases h
    next hn => exact ⟨rfl, formXYN_of_fields ht (congrArg BitVec.toNat hn)⟩
  all_goals cases h
  case h_2.refl ht | h_3.refl ht | h_11.refl ht | h_12.refl ht => exact ⟨rfl, formA_of_fields ht⟩
  case h_14.refl ht => exact ⟨rfl, formXYN_of_fieldT ht⟩
  all_goals next ht => exact ⟨rfl, formXNN_of_fieldT ht⟩

end

open Laws.RoundTrip in
/-- The word of every well-formed instruction decodes to it. -/
theorem decodeWord_encode : ∀ i : Instr, Statement i
  | .cls => cls
  | .ret => ret
  | .sys nnn => sys nnn
  | .jp nnn => jp nnn
  | .call nnn => call nnn
  | .seImm x nn => seImm x nn
  | .sneImm x nn => sneImm x nn
  | .seReg x y => seReg x y
  | .ldImm x nn => ldImm x nn
  | .addImm x nn => addImm x nn
  | .ldReg x y => ldReg x y
  | .orReg x y => orReg x y
  | .andReg x y => andReg x y
  | .xorReg x y => xorReg x y
  | .addReg x y => addReg x y
  | .subReg x y => subReg x y
  | .shr x y => shr x y
  | .subn x y => subn x y
  | .shl x y => shl x y
  | .sneReg x y => sneReg x y
  | .ldI nnn => ldI nnn
  | .jpV0 nnn => jpV0 nnn
  | .rnd x nn => rnd x nn
  | .drw x y n => drw x y n
  | .skp x => skp x
  | .sknp x => sknp x
  | .ldVxDt x => ldVxDt x
  | .ldVxK x => ldVxK x
  | .ldDtVx x => ldDtVx x
  | .ldStVx x => ldStVx x
  | .addI x => addI x
  | .ldF x => ldF x
  | .ldB x => ldB x
  | .ldMemVx x => ldMemVx x
  | .ldVxMem x => ldVxMem x

theorem decodeWord_eq_ok_iff (op : Word) (i : Instr) :
    decodeWord op = .ok i ↔ i.wellFormed = true ∧ encode i = op := by
  refine ⟨decodeWord_isWord, ?_⟩
  rintro ⟨hwf, rfl⟩
  exact decodeWord_encode i hwf

/-- Settles O2: each arm of the decoder gives an instruction whose word it has read, and the round trip of every
instruction is the converse. -/
theorem decodeAndEncodeAgree : Obligations.DecodeAndEncodeAgree := by
  refine ⟨decodeWord_eq_ok_iff, fun i rest hwf => ?_⟩
  rw [encodeBytes, decodeBytes_wordBytes, decodeWord_encode i hwf]
  rfl

/-! ### What a rejected word is (R106) -/

/-- The word is in the class of illegal words that the error names, and the error carries the word. -/
def DecodeError.Rejects (op : Word) : DecodeError → Prop
  | .illegal5XYn w => w = op ∧ op.toNat / 4096 = 0x5 ∧ op.toNat % 16 ≠ 0
  | .illegal8XYn w => w = op ∧ op.toNat / 4096 = 0x8 ∧ op.toNat % 16 ∈ [0x8, 0x9, 0xA, 0xB, 0xC, 0xD, 0xF]
  | .illegal9XYn w => w = op ∧ op.toNat / 4096 = 0x9 ∧ op.toNat % 16 ≠ 0
  | .illegalEXnn w => w = op ∧ op.toNat / 4096 = 0xE ∧ op.toNat % 256 ∉ [0x9E, 0xA1]
  | .illegalFXnn w => w = op ∧ op.toNat / 4096 = 0xF ∧
      op.toNat % 256 ∉ [0x07, 0x0A, 0x15, 0x18, 0x1E, 0x29, 0x33, 0x55, 0x65]
  | .truncated => False

section
variable {op : Word}

/-- decode8 rejects by low nibble, under the one name. -/
theorem decode8_eq_error_iff (e : DecodeError) : decode8 op = .error e ↔
    e = .illegal8XYn op ∧ op.toNat % 16 ∈ [0x8, 0x9, 0xA, 0xB, 0xC, 0xD, 0xF] := by
  rw [← fieldN_toNat]
  have hlt := (fieldN op).isLt
  unfold decode8
  split
  case h_10 =>
    simp only [imp_false] at *
    have hn : (fieldN op).toNat ∈ [0x8, 0x9, 0xA, 0xB, 0xC, 0xD, 0xF] := by
      simp only [List.mem_cons, List.not_mem_nil, or_false]
      omega
    exact ⟨fun h => ⟨(Except.error.inj h).symm, hn⟩, fun h => congrArg Except.error h.1.symm⟩
  all_goals next hn => simp [hn]

/-- decodeE rejects by low byte, under the one name. -/
theorem decodeE_eq_error_iff (e : DecodeError) : decodeE op = .error e ↔
    e = .illegalEXnn op ∧ op.toNat % 256 ∉ [0x9E, 0xA1] := by
  rw [← fieldNN_toNat]
  unfold decodeE
  split
  case h_3 => simp_all [eq_comm]
  all_goals next hnn => simp [hnn]

/-- decodeF rejects by low byte, under the one name. -/
theorem decodeF_eq_error_iff (e : DecodeError) : decodeF op = .error e ↔
    e = .illegalFXnn op ∧ op.toNat % 256 ∉ [0x07, 0x0A, 0x15, 0x18, 0x1E, 0x29, 0x33, 0x55, 0x65] := by
  rw [← fieldNN_toNat]
  unfold decodeF
  split
  case h_10 => simp_all [eq_comm]
  all_goals next hnn => simp [hnn]

/-- The decoder rejects a word exactly under the name of its class. -/
theorem decodeWord_eq_error_iff (e : DecodeError) : decodeWord op = .error e ↔ e.Rejects op := by
  have hlt := (fieldT op).isLt
  have hn : fieldN op = 0#4 ↔ op.toNat % 16 = 0 := by
    rw [← fieldN_toNat, BitVec.toNat_eq]
    rfl
  unfold decodeWord DecodeError.Rejects
  simp only [← fieldT_toNat]
  split
  case h_6 ht | h_10 ht =>
    simp only [hn, ht]
    split <;> next h => cases e <;> simp [h, eq_comm (a := op)]
  case h_9 ht => rw [decode8_eq_error_iff]; cases e <;> simp [ht]
  case h_15 ht => rw [decodeE_eq_error_iff]; cases e <;> simp [ht]
  case h_16 =>
    simp only [imp_false] at *
    have ht : (fieldT op).toNat = 15 := by omega
    rw [decodeF_eq_error_iff]
    cases e <;> simp [ht]
  all_goals next ht => cases e <;> simp [ht]

end

/-- Settles O3: a word is rejected exactly under the name of its class, and each class but the truncated list is one of
the five. -/
theorem illegalWordsAreTheFiveClasses : Obligations.IllegalWordsAreTheFiveClasses := by
  have hclass : ∀ {op} {e : DecodeError}, e.Rejects op →
      e ∈ [.illegal5XYn op, .illegal8XYn op, .illegal9XYn op, .illegalEXnn op, .illegalFXnn op] := by
    intro op e he
    cases e <;> simp_all [DecodeError.Rejects]
  refine fun op => ⟨?_, ?_, ?_, ?_, ?_, fun e he => hclass ((decodeWord_eq_error_iff e).mp he)⟩
  all_goals exact (decodeWord_eq_error_iff _).trans (and_iff_right rfl)

/-- Settles O1: each word is decoded by evaluation. -/
theorem specWordsDecode : Obligations.SpecWordsDecode := by
  unfold Obligations.SpecWordsDecode
  decide

end Sys2Proof

/-! # The invariant of a session

State.Inv speaks of few units of the state. A move that leaves these, and does not turn the clock back, keeps it; what
is left is an instruction, by its effects, a fatal error, the end of a wait, and a load before the first step. -/

namespace Sys2Proof.Machine

section
variable {s t : State}

/-- The units that Inv does not read may change, and the clock may go on. -/
theorem State.Inv.of_frame (hs : s.Inv)
    (ht : t = { s with
      V := t.V, I := t.I, pixel := t.pixel, modified := t.modified, key := t.key, pending := t.pending
      cycles := t.cycles, diagnostics := t.diagnostics, clock := t.clock, clockReads := t.clockReads
      randomReads := t.randomReads, schedule := t.schedule })
    (hclock : s.clock ≤ t.clock) : t.Inv where
  config := by rw [ht]; exact hs.config
  memory := by rw [ht]; exact hs.memory
  pc := by rw [ht]; exact hs.pc
  entries := by rw [ht]; exact hs.entries
  depth := by rw [ht]; exact hs.depth
  exitStatus := by rw [ht]; exact hs.exitStatus
  started := by rw [show t.startTime = s.startTime by rw [ht]]; exact hs.started.trans hclock
  delay := by rw [show t.delayDeadline = s.delayDeadline by rw [ht]]; exact hs.delay.trans (by omega)
  sound := by rw [show t.soundDeadline = s.soundDeadline by rw [ht]]; exact hs.sound.trans (by omega)
  waiting := by rw [ht]; exact hs.waiting

/-- A fatal error halts with EXIT_STATUS and touches nothing else that Inv reads (R402). -/
theorem State.Inv.raiseFatal (hs : s.Inv) (d : Diagnostic) : (s.raiseFatal d).Inv where
  config := hs.config
  memory := hs.memory
  pc := hs.pc
  entries := hs.entries
  depth := hs.depth
  exitStatus _ h := by
    injection h with h
    exact h.symm
  started := hs.started
  delay := hs.delay
  sound := hs.sound
  waiting _ _ h := nomatch h

/-! ### An instruction -/

/-- From a word that was fetched, with fetchable return addresses, PC goes no higher than 0xFFF + 0xFF (R36). -/
theorem PcReaches.le {pc : Word} (h : PcReaches s pc) (hpc : s.PC.toNat + 2 ≤ memSize)
    (hstack : ∀ a ∈ s.stack, a.toNat + 2 ≤ memSize) : pc.toNat ≤ 0x10FE := by
  rw [memSize] at hpc
  obtain rfl | rfl | rfl | ⟨nnn, rfl⟩ | ⟨nnn, b, rfl⟩ | ⟨a, ha, rfl⟩ := h
  · omega
  · rw [BitVec.toNat_add, BitVec.toNat_ofNat]; omega
  · rw [BitVec.toNat_add, BitVec.toNat_ofNat]; omega
  · rw [zext12_toNat]; omega
  · rw [zext12_add_zext8_toNat]; omega
  · have := hstack a ha
    rw [memSize] at this
    rw [BitVec.toNat_add, BitVec.toNat_ofNat]
    omega

/-- An instruction at PC keeps the invariant: its effects, unit by unit. -/
theorem State.Inv.exec {i : Instr} (hs : s.Inv) (hr : s.run = .running) (hf : s.fetch = some (encode i))
    (h : exec i s = .next t) : t.Inv := by
  have heff := exec_effects h
  have hpc := fetch_in_range hf
  refine ⟨?config, ?memory, heff.pc.le hpc hs.entries, ?entries, ?depth, ?exitStatus, ?started, ?delay, ?sound,
    ?waiting⟩
  case config => rw [heff.cfg]; exact hs.config
  case memory =>
    obtain hm | ⟨_, _, hrange, hm⟩ := heff.memory <;> rw [heff.cfg, hm]
    · exact hs.memory
    · exact Memory.wf_putRange hs.memory hrange
  case entries =>
    obtain hst | ⟨hst, _⟩ | ⟨a, hst⟩ := heff.stack
    · rw [hst]; exact hs.entries
    · rw [hst]; exact List.forall_mem_cons.mpr ⟨hpc, hs.entries⟩
    · exact fun b hb => hs.entries b (hst ▸ List.mem_cons_of_mem a hb)
  case depth =>
    intro n hn
    rw [heff.cfg] at hn
    have hlen := hs.depth n hn
    obtain hst | ⟨hst, hfree⟩ | ⟨a, hst⟩ := heff.stack
    · rwa [hst]
    · rw [hn] at hfree
      rw [hst, List.length_cons]
      exact Nat.lt_of_le_of_ne hlen fun e => hfree (congrArg some e.symm)
    · rw [hst, List.length_cons] at hlen
      omega
  case exitStatus =>
    intro status hh
    rw [heff.cfg]
    obtain hrun | ⟨_, _, _, hrun, _⟩ | ⟨hrun, _⟩ := heff.run <;> rw [hrun] at hh
    · exact hs.exitStatus status hh
    · cases hh
    · injection hh with hh
      exact hh.symm
  case started => rw [heff.startTime]; exact hs.started.trans heff.clock
  case delay =>
    obtain hd | ⟨n, hd⟩ := heff.delay <;> rw [hd]
    · exact hs.delay.trans (Nat.add_le_add_right heff.clock _)
    · exact (deadlineAfter_bounds t.clock n).2
  case sound =>
    obtain hd | ⟨n, hd⟩ := heff.sound <;> rw [hd]
    · exact hs.sound.trans (Nat.add_le_add_right heff.clock _)
    · exact (deadlineAfter_bounds t.clock n).2
  case waiting =>
    intro x tEnd hw
    obtain hrun | ⟨y, _, rfl, hrun, hm, hp⟩ | ⟨hrun, _⟩ := heff.run <;> rw [hrun] at hw
    · rw [hr] at hw; cases hw
    · injection hw with hx
      rw [fetch_congr heff.cfg hm hp, hf, hx]
    · cases hw

/-! ### The core's move -/

theorem State.Inv.runWord {op : Word} (hs : s.Inv) (hr : s.run = .running) (hf : s.fetch = some op)
    (h : s.runWord op = .next t) : t.Inv := by
  obtain ⟨_, _, rfl⟩ | ⟨i, u, hdec, hexec, hu⟩ := runWord_cases s h
  · exact hs.raiseFatal _
  · have hinv := hs.exec hr (hf.trans (by rw [(decodeWord_isWord hdec).2])) hexec
    obtain ⟨_, rfl⟩ | ⟨_, rfl⟩ := hu
    · exact hinv.of_frame rfl (Nat.le_refl _)
    · exact hinv

/-- The end of a wait: FX0A was at PC, so PC + 2 is in range. -/
theorem State.Inv.finishWait {x : RegIdx} {tEnd : Option Nat} (hs : s.Inv) (hr : s.run = .waitingKey x tEnd)
    (result : Option (Fin 16)) : (s.finishWait x result).Inv := by
  have hpc := fetch_in_range (hs.waiting x tEnd hr)
  have hpc' : (s.PC + 2#16).toNat ≤ 0x10FE := PcReaches.le (.inr (.inl rfl)) hpc hs.entries
  cases result <;>
    exact ⟨hs.config, hs.memory, hpc', hs.entries, hs.depth, nofun, hs.started, hs.delay, hs.sound, nofun⟩

theorem State.Inv.resumeWait {x : RegIdx} {tEnd : Option Nat} (hs : s.Inv) (hr : s.run = .waitingKey x tEnd) :
    (s.resumeWait x tEnd).Inv := by
  have hclear : s.clearPending.Inv := hs.of_frame rfl (Nat.le_refl _)
  have hread : s.clockRead.Inv := hs.of_frame rfl (clock_le_now s)
  obtain ⟨_, _, _, h⟩ | ⟨_, _, _, _, h⟩ | ⟨_, _, h⟩ | ⟨_, _, _, _, h⟩ | ⟨_, _, _, _, h⟩ :=
    resumeWait_cases s x tEnd <;> rw [h]
  · exact hclear.finishWait hr _
  · exact hclear
  · exact hs
  · exact hread
  · exact hread.finishWait hr _

theorem State.Inv.coreStep {forceSync : Bool} (hs : s.Inv) (h : s.coreStep forceSync = .next t) : t.Inv := by
  obtain ⟨_, _, rfl⟩ | ⟨op, hr, hf, hword⟩ | ⟨x, tEnd, hr, rfl⟩ := coreStep_cases s h
  · exact hs.raiseFatal _
  · have hthrottle : (s.throttle op forceSync).Inv := hs.of_frame rfl (clock_le_throttle s op forceSync)
    exact hthrottle.runWord hr ((throttle_fetch s op forceSync).trans hf) hword
  · exact hs.resumeWait hr

/-! ### The moves of the outside agents -/

/-- A load comes while the core is RUNNING, so it overwrites no FX0A that waits. -/
theorem State.Inv.loadProgram (hs : s.Inv) (hr : s.run = .running) (bytes : List Byte) : (s.loadProgram bytes).Inv := by
  obtain ⟨hlen, h⟩ | ⟨_, h⟩ := loadProgram_cases s bytes <;> rw [h]
  · exact ⟨hs.config, Memory.wf_putRange hs.memory (by rw [memSize]; omega), hs.pc, hs.entries, hs.depth,
      hs.exitStatus, hs.started, hs.delay, hs.sound, fun x tEnd hw => nomatch hr.symm.trans hw⟩
  · exact hs.of_frame rfl (Nat.le_refl _)

theorem State.Inv.move {m : Move} (hs : s.Inv) (h : s.move m = .next t) : t.Inv := by
  obtain ⟨_, _, hcore⟩ | ⟨k, pressed, _, rfl⟩ | ⟨_, _, ht, _⟩ | ⟨ns, _, rfl⟩ | ⟨bytes, _, _, hr, rfl⟩ := move_cases s h
  · exact hs.coreStep hcore
  · obtain ⟨h, _⟩ | ⟨_, _, h⟩ := setKey_cases s k pressed <;> rw [h]
    · exact hs
    · exact hs.of_frame rfl (Nat.le_refl _)
  · exact hs.of_frame (by rw [ht]) (by rw [ht])
  · exact hs.of_frame rfl (Nat.le_add_right _ _)
  · exact hs.loadProgram hr bytes

end

/-- Settles O16: taking a move off the list changes nothing that Inv reads, and every move keeps it. -/
theorem everyStepKeepsTheInvariant : Obligations.EveryStepKeepsTheInvariant := by
  intro s t hs h
  obtain ⟨_, ⟨_, hcore⟩ | ⟨m, rest, _, hmove⟩⟩ := step_cases s h
  · exact hs.coreStep hcore
  · exact (hs.of_frame (t := s.setSchedule rest) rfl (Nat.le_refl _)).move hmove

/-! ### Reset -/

theorem nonzeroStatus_ne_zero (z : Int) : nonzeroStatus z ≠ 0 := by
  unfold nonzeroStatus
  split
  · exact Int.one_ne_zero
  · assumption

/-- A session constructed in its parameter ranges meets the invariant. -/
theorem construct_inv {cfg : Config} (hcfg : cfg.wf = true) (now : Nat) : (State.construct cfg now).Inv where
  config := hcfg
  memory := Memory.wf_nil
  pc := show programBase.toNat ≤ 0x10FE by decide
  entries := nofun
  depth _ _ := Nat.zero_le _
  exitStatus := nofun
  started := Nat.le_refl now
  delay := Nat.le_add_right now _
  sound := Nat.le_add_right now _
  waiting := nofun

/-- Settles O15: the reset configuration is in its ranges, whatever its free values are. -/
theorem invariantHoldsAtReset : Obligations.InvariantHoldsAtReset := by
  have hwf : standardConfig.wf = true :=
    Bool.and_eq_true_iff.mpr ⟨decide_eq_true (nonzeroStatus_ne_zero _), by decide⟩
  exact construct_inv hwf Config.freeStartTime

end Sys2Proof.Machine

/-! # Every step

What the core's step is for the word at PC; how the run state moves; and what no step changes or turns back. Each is
said of the core's move by the outcomes of its parts, and then of every agent's move. -/

namespace Sys2Proof.Machine

/-! ### The step and its instruction (R130, R148, R409) -/

/-- Settles O7: step looks at the run state first. -/
theorem haltedCoreTakesNoStep : Obligations.HaltedCoreTakesNoStep := by
  intro s status hr
  simp only [step, hr]

/-- Settles O8: an instruction that can fail or be refused an access answers a next state on each branch. -/
theorem everyInstructionExecutes : Obligations.EveryInstructionExecutes := by
  intro i s
  cases i <;> simp only [exec]
  case ret => unfold execRet; split <;> exact ⟨_, rfl⟩
  case sys => unfold execSys; split <;> exact ⟨_, rfl⟩
  case call => unfold execCall; split <;> exact ⟨_, rfl⟩
  case drw => unfold execDrw; split <;> exact ⟨_, rfl⟩
  case ldB => unfold execLdB; split <;> exact ⟨_, rfl⟩
  case ldMemVx => unfold execLdMemVx; split <;> exact ⟨_, rfl⟩
  case ldVxMem => unfold execLdVxMem; split <;> exact ⟨_, rfl⟩
  all_goals exact ⟨_, rfl⟩

theorem countCompleted_of_running {t : State} (h : t.run = .running) :
    countCompleted (.next t) = .next t.countCycle := by
  simp only [countCompleted, h]

theorem countCompleted_of_not_running {t : State} (h : t.run ≠ .running) : countCompleted (.next t) = .next t := by
  cases hrun : t.run with
  | running => exact absurd hrun h
  | waitingKey | halted => simp only [countCompleted, hrun]

/-- A word that decodes is its instruction and then the count (R135, R140). -/
theorem runWord_of_legal {s : State} {op : Word} {i : Instr} (h : decodeWord op = .ok i) :
    s.runWord op = countCompleted (exec i s) := by
  simp only [State.runWord, h]

/-- Settles O5: the core's move runs the word it has fetched, and the count looks at the run state. -/
theorem stepRunsTheDecodedInstruction : Obligations.StepRunsTheDecodedInstruction := by
  intro forceSync s s' op i t hr hnext hf hdec hexec
  rw [step_of_running hnext hr, coreStep_of_fetch s' (hnext.run.trans hr) hf, runWord_of_legal hdec, hexec]
  exact ⟨fun ht => countCompleted_of_running ht, fun ht => countCompleted_of_not_running ht⟩

/-! ### The run state (R146) -/

/-- A record of a fatal error, with PC and the cycle count of s (R401, R402). -/
def IsFatalRecord (s : State) (d : Diagnostic) : Prop :=
  (∃ op, d = .illegalOpcode op s.PC s.cycles) ∨ d = .fetchOutOfRange s.PC s.cycles ∨
    ∃ op, d = .stackOverflow op s.PC s.cycles

/-- What ends a wait by time t: an event that qualifies, or a deadline that has passed (R244, R249). -/
def WaitIsOver (s : State) (tEnd : Option Nat) (t : Nat) : Prop :=
  (∃ e, s.pending = some e ∧ (s.cfg.waitReleaseOnly = true → e.pressed = false)) ∨
    (s.pending = none ∧ ∃ T, tEnd = some T ∧ T ≤ t)

/-- The run state is in t what a listed transition from s makes it. -/
def RunMoves (s t : State) : Prop :=
  (∀ x tEnd, t.run = .waitingKey x tEnd →
    s.run = t.run ∨ (s.run = .running ∧ s.fetch = some (encode (.ldVxK x)))) ∧
  (∀ status, t.run = .halted status → s.run = .running ∧ status = s.cfg.exitStatus ∧
    ∃ d, t.diagnostics = d :: s.diagnostics ∧ IsFatalRecord s d) ∧
  (t.run = .running → s.run = .running ∨ ∃ x tEnd, s.run = .waitingKey x tEnd ∧ WaitIsOver s tEnd t.clock)

section
variable {s t : State}

theorem runMoves_of_run_eq (h : t.run = s.run) (hr : ∀ status, s.run ≠ .halted status) : RunMoves s t :=
  ⟨fun _ _ _ => .inl h.symm, fun status hh => absurd (h.symm.trans hh) (hr status),
    fun hrun => .inl (h.symm.trans hrun)⟩

theorem runMoves_of_fatal {d : Diagnostic} (hr : s.run = .running) (ht : t.run = .halted s.cfg.exitStatus)
    (hdiag : t.diagnostics = d :: s.diagnostics) (hd : IsFatalRecord s d) : RunMoves s t := by
  refine ⟨fun x tEnd hw => ?_, fun status hh => ?_, fun hrun => ?_⟩
  · cases ht.symm.trans hw
  · cases ht.symm.trans hh
    exact ⟨hr, rfl, d, hdiag, hd⟩
  · cases ht.symm.trans hrun

theorem runMoves_of_wait {x : RegIdx} {tEnd : Option Nat} (hr : s.run = .running)
    (hf : s.fetch = some (encode (.ldVxK x))) (ht : t.run = .waitingKey x tEnd) : RunMoves s t := by
  refine ⟨fun y tEnd' hw => ?_, fun status hh => ?_, fun hrun => ?_⟩
  · cases ht.symm.trans hw
    exact .inr ⟨hr, hf⟩
  · cases ht.symm.trans hh
  · cases ht.symm.trans hrun

theorem runMoves_of_end {x : RegIdx} {tEnd : Option Nat} (hr : s.run = .waitingKey x tEnd) (ht : t.run = .running)
    (hover : WaitIsOver s tEnd t.clock) : RunMoves s t := by
  refine ⟨fun y tEnd' hw => ?_, fun status hh => ?_, fun _ => .inr ⟨x, tEnd, hr, hover⟩⟩
  · cases ht.symm.trans hw
  · cases ht.symm.trans hh

theorem exec_runMoves {i : Instr} (hr : s.run = .running) (hf : s.fetch = some (encode i)) (h : exec i s = .next t) :
    RunMoves s t := by
  obtain hrun | ⟨x, _, rfl, hrun, _⟩ | ⟨hrun, _, op, hd | hd⟩ := (exec_effects h).run
  · exact runMoves_of_run_eq hrun fun status => by simp [hr]
  · exact runMoves_of_wait hr hf hrun
  · exact runMoves_of_fatal hr hrun hd (.inl ⟨op, rfl⟩)
  · exact runMoves_of_fatal hr hrun hd (.inr (.inr ⟨op, rfl⟩))

theorem runWord_runMoves {op : Word} (hr : s.run = .running) (hf : s.fetch = some op) (h : s.runWord op = .next t) :
    RunMoves s t := by
  obtain ⟨_, _, rfl⟩ | ⟨i, u, hdec, hexec, hu⟩ := runWord_cases s h
  · exact runMoves_of_fatal hr rfl rfl (.inl ⟨op, rfl⟩)
  · have hmoves := exec_runMoves hr (hf.trans (by rw [(decodeWord_isWord hdec).2])) hexec
    obtain ⟨_, rfl⟩ | ⟨_, rfl⟩ := hu <;> exact hmoves

theorem resumeWait_runMoves {x : RegIdx} {tEnd : Option Nat} (hr : s.run = .waitingKey x tEnd) :
    RunMoves s (s.resumeWait x tEnd) := by
  have hnot : ∀ status, s.run ≠ .halted status := fun status => by simp [hr]
  obtain ⟨e, he, hq, h⟩ | ⟨_, _, _, _, h⟩ | ⟨_, _, h⟩ | ⟨_, _, _, _, h⟩ | ⟨T, he, hT, hle, h⟩ :=
    resumeWait_cases s x tEnd <;> rw [h]
  · exact runMoves_of_end hr rfl (.inl ⟨e, he, hq⟩)
  · exact runMoves_of_run_eq rfl hnot
  · exact runMoves_of_run_eq rfl hnot
  · exact runMoves_of_run_eq rfl hnot
  · exact runMoves_of_end hr rfl (.inr ⟨he, T, hT, hle⟩)

theorem coreStep_runMoves {forceSync : Bool} (h : s.coreStep forceSync = .next t) : RunMoves s t := by
  obtain ⟨hr, _, rfl⟩ | ⟨op, hr, hf, hword⟩ | ⟨x, tEnd, hr, rfl⟩ := coreStep_cases s h
  · exact runMoves_of_fatal hr rfl rfl (.inr (.inl rfl))
  · exact runWord_runMoves (s := s.throttle op forceSync) hr ((throttle_fetch s op forceSync).trans hf) hword
  · exact resumeWait_runMoves hr

/-- The moves of the outside agents leave the run state (R63). -/
theorem move_run_of_not_core {m : Move} (h : s.move m = .next t) (hm : ∀ forceSync, m ≠ .core forceSync) :
    t.run = s.run := by
  obtain ⟨f, rfl, _⟩ | ⟨k, pressed, _, rfl⟩ | ⟨_, _, ht, _⟩ | ⟨ns, _, rfl⟩ | ⟨bytes, _, _, _, rfl⟩ := move_cases s h
  · exact absurd rfl (hm f)
  · obtain ⟨h, _⟩ | ⟨_, _, h⟩ := setKey_cases s k pressed <;> rw [h]
  · rw [ht]
  · rfl
  · obtain ⟨_, h⟩ | ⟨_, h⟩ := loadProgram_cases s bytes <;> rw [h]
    rfl

theorem move_runMoves {m : Move} (hr : ∀ status, s.run ≠ .halted status) (h : s.move m = .next t) : RunMoves s t := by
  cases m with
  | core f => exact coreStep_runMoves h
  | setKey | snapshot | advanceClock | load | cancel => exact runMoves_of_run_eq (move_run_of_not_core h nofun) hr

end

/-- Settles O11: every move is a listed one, and taking it off the list changes nothing that the transitions read. -/
theorem runStateMovesOnlyAsListed : Obligations.RunStateMovesOnlyAsListed := by
  intro s t h
  obtain ⟨hr, ⟨_, hcore⟩ | ⟨m, rest, _, hmove⟩⟩ := step_cases s h
  · exact coreStep_runMoves hcore
  · exact move_runMoves (s := s.setSchedule rest) hr hmove

/-! ### What is fixed, and what never goes back (R38, R48, R49, R51) -/

/-- From s to t the configuration and start_time stand, and neither the clock nor the cycle counter goes back. -/
def GoesForward (s t : State) : Prop :=
  t.cfg = s.cfg ∧ t.startTime = s.startTime ∧ s.clock ≤ t.clock ∧ s.cycles ≤ t.cycles

section
variable {s t u : State}

theorem GoesForward.refl (s : State) : GoesForward s s := ⟨rfl, rfl, Nat.le_refl _, Nat.le_refl _⟩

theorem GoesForward.trans (h : GoesForward s t) (h' : GoesForward t u) : GoesForward s u := by
  obtain ⟨hcfg, hstart, hclock, hcycles⟩ := h
  obtain ⟨hcfg', hstart', hclock', hcycles'⟩ := h'
  exact ⟨hcfg'.trans hcfg, hstart'.trans hstart, hclock.trans hclock', hcycles.trans hcycles'⟩

theorem goesForward_clockRead (s : State) : GoesForward s s.clockRead := ⟨rfl, rfl, clock_le_now s, Nat.le_refl _⟩

theorem goesForward_throttle (s : State) (op : Word) (forceSync : Bool) : GoesForward s (s.throttle op forceSync) :=
  ⟨rfl, rfl, clock_le_throttle s op forceSync, Nat.le_refl _⟩

theorem goesForward_finishWait (s : State) (x : RegIdx) (result : Option (Fin 16)) :
    GoesForward s (s.finishWait x result) := by
  cases result <;> exact ⟨rfl, rfl, Nat.le_refl _, Nat.le_succ _⟩

theorem runWord_goesForward {op : Word} (h : s.runWord op = .next t) : GoesForward s t := by
  obtain ⟨_, _, rfl⟩ | ⟨i, u, _, hexec, hu⟩ := runWord_cases s h
  · exact .refl s
  · have heff := exec_effects hexec
    have hu' : GoesForward s u := ⟨heff.cfg, heff.startTime, heff.clock, heff.cycles.ge⟩
    obtain ⟨_, rfl⟩ | ⟨_, rfl⟩ := hu
    · exact hu'.trans ⟨rfl, rfl, Nat.le_refl _, Nat.le_succ _⟩
    · exact hu'

theorem resumeWait_goesForward (x : RegIdx) (tEnd : Option Nat) : GoesForward s (s.resumeWait x tEnd) := by
  obtain ⟨_, _, _, h⟩ | ⟨_, _, _, _, h⟩ | ⟨_, _, h⟩ | ⟨_, _, _, _, h⟩ | ⟨_, _, _, _, h⟩ :=
    resumeWait_cases s x tEnd <;> rw [h]
  · exact goesForward_finishWait s.clearPending x _
  · exact .refl s
  · exact .refl s
  · exact goesForward_clockRead s
  · exact (goesForward_clockRead s).trans (goesForward_finishWait _ x _)

theorem coreStep_goesForward {forceSync : Bool} (h : s.coreStep forceSync = .next t) : GoesForward s t := by
  obtain ⟨_, _, rfl⟩ | ⟨op, _, _, hword⟩ | ⟨x, tEnd, _, rfl⟩ := coreStep_cases s h
  · exact .refl s
  · exact (goesForward_throttle s op forceSync).trans (runWord_goesForward hword)
  · exact resumeWait_goesForward x tEnd

theorem move_goesForward {m : Move} (h : s.move m = .next t) : GoesForward s t := by
  obtain ⟨_, _, hcore⟩ | ⟨k, pressed, _, rfl⟩ | ⟨_, _, ht, _⟩ | ⟨ns, _, rfl⟩ | ⟨bytes, _, _, _, rfl⟩ := move_cases s h
  · exact coreStep_goesForward hcore
  · obtain ⟨h, _⟩ | ⟨_, _, h⟩ := setKey_cases s k pressed <;> rw [h] <;> exact .refl s
  · rw [ht]; exact .refl s
  · exact ⟨rfl, rfl, Nat.le_add_right _ _, Nat.le_refl _⟩
  · obtain ⟨_, h⟩ | ⟨_, h⟩ := loadProgram_cases s bytes <;> rw [h] <;> exact .refl s

theorem step_goesForward (h : step s = .next t) : GoesForward s t := by
  obtain ⟨_, ⟨_, hcore⟩ | ⟨m, rest, _, hmove⟩⟩ := step_cases s h
  · exact coreStep_goesForward hcore
  · exact move_goesForward (s := s.setSchedule rest) hmove

end

/-! ### A core that stays RUNNING (R63, R130) -/

section
variable {moves : Nat → Move} {r : Nat → State} (h : InfiniteRun moves r) {n k : Nat}
include h

/-- A move of a run makes the move alone: nothing is left on the list. -/
theorem InfiniteRun.move_eq (n : Nat) : ((r n).setSchedule []).move (moves n) = .next (r (n + 1)) := by
  have hstep := h n
  rwa [step_of_schedule_cons (step_cases _ hstep).1 rfl] at hstep

/-- Along a run the clock and the cycle counter never go back, and the configuration stands. -/
theorem InfiniteRun.goesForward (hk : n ≤ k) : GoesForward (r n) (r k) :=
  h.keeps (P := GoesForward (r n)) (fun s _ m hP hstep =>
    hP.trans (step_goesForward (s := s.setSchedule [m]) hstep)) (.refl _) hk

/-- A RUNNING core's move that leaves it RUNNING counts. -/
theorem InfiniteRun.cycles_succ {forceSync : Bool} (hm : moves n = .core forceSync) (hr : (r (n + 1)).run = .running) :
    (r (n + 1)).cycles = (r n).cycles + 1 := by
  have hmove := h.move_eq n
  rw [hm] at hmove
  exact (coreStep_countsIfRunning hmove).1 hr

end

/-- Settles O20: every move goes forward; and in a run each of the driver's moves adds one to the counter, so by
induction it passes every number. -/
theorem configurationIsFixedAndTimeNeverGoesBack : Obligations.ConfigurationIsFixedAndTimeNeverGoesBack := by
  refine ⟨fun _ _ => step_goesForward, fun moves r n hrun hdriver hrunning c => ?_⟩
  have hlater : ∃ k, n ≤ k ∧ c ≤ (r k).cycles := by
    induction c with
    | zero => exact ⟨n, Nat.le_refl n, Nat.zero_le _⟩
    | succ c ih =>
      obtain ⟨k, hk, hc⟩ := ih
      obtain ⟨j, forceSync, hj, hm⟩ := hdriver k (hrunning k hk)
      obtain ⟨_, _, _, hcycles⟩ := hrun.goesForward hj
      refine ⟨j + 1, by omega, ?_⟩
      rw [hrun.cycles_succ hm (hrunning (j + 1) (by omega))]
      omega
  obtain ⟨k, _, hc⟩ := hlater
  exact ⟨k, hc⟩

/-! ### The throttle (R142 to R145, R448) -/

/-- The instructions of THROTTLED, listed (R142). -/
theorem isThrottled_iff (i : Instr) : isThrottled i = true ↔ i = .cls ∨ (∃ x y n, i = .drw x y n) ∨
    ∃ x, i = .skp x ∨ i = .sknp x ∨ i = .ldVxDt x ∨ i = .ldVxK x ∨ i = .ldDtVx x ∨ i = .ldStVx x := by
  cases i <;> simp [isThrottled]

section
variable (s : State) {op : Word}

/-- Without FREQUENCY the throttle does nothing (R143). -/
theorem throttle_of_unlimited (forceSync : Bool) (h : s.cfg.frequency = 0) : s.throttle op forceSync = s :=
  throttle_eq_self s (by simp [State.throttleRuns, h])

/-- Without forceSync the throttle does nothing before a word outside THROTTLED (R143). -/
theorem throttle_of_not_throttled (h : ∀ i, decodeWord op = .ok i → isThrottled i = false) :
    s.throttle op false = s := by
  refine throttle_eq_self s ?_
  unfold State.throttleRuns
  cases hdec : decodeWord op with
  | ok i => simp [h i hdec]
  | error e => simp

/-- When the throttle runs, the clock goes to the time it is done from its first reading (R143, R144). -/
theorem throttle_clock_of_runs {forceSync : Bool} (h : s.throttleRuns op forceSync = true) :
    (s.throttle op forceSync).clock = s.throttleDone s.now := by
  simp only [State.throttle, h, if_true]

/-- aheadScaled's bound as R448 writes it, in nanoseconds. -/
theorem paced_of_aheadScaled_lt {t : Nat} (hfreq : s.cfg.frequency ≠ 0)
    (h : s.aheadScaled t < 1000000 * (s.cfg.frequency : Int)) :
    (s.cycles : ℚ) * 1000000000 / s.cfg.frequency - 1000000 < (t : ℚ) - s.startTime := by
  have hpos : (0 : ℚ) < s.cfg.frequency := by exact_mod_cast Nat.pos_of_ne_zero hfreq
  have hscaled : (1000000000 * s.cycles - (t - s.startTime) * s.cfg.frequency : ℚ) < 1000000 * s.cfg.frequency := by
    unfold State.aheadScaled at h
    exact_mod_cast h
  rw [sub_lt_iff_lt_add, div_lt_iff₀ hpos]
  linarith

end

/-- Settles O12: when it does not run the throttle is the identity, and when it runs it is done no earlier than it read
the clock, with less than 1 ms left. -/
theorem throttleOnlyLetsTimePass : Obligations.ThrottleOnlyLetsTimePass := by
  refine fun op forceSync s => ⟨_, rfl, rfl, clock_le_throttle s op forceSync, throttle_of_unlimited s forceSync,
    ?outside, fun hfreq hruns => ?paced⟩
  case outside =>
    rintro rfl hword
    refine throttle_of_not_throttled s fun i hdec => Bool.eq_false_iff.mpr fun hi => ?_
    obtain ⟨hcls, hdrw, hx⟩ := hword i hdec
    obtain rfl | ⟨x, y, n, rfl⟩ | ⟨x, hi⟩ := (isThrottled_iff i).mp hi
    · exact hcls rfl
    · exact hdrw x y n rfl
    · have := hx x
      tauto
  case paced =>
    have hr : s.throttleRuns op forceSync = true := by
      obtain rfl | ⟨i, hdec, hi⟩ := hruns
      · simp [State.throttleRuns, hfreq]
      · simp [State.throttleRuns, hfreq, hdec, (isThrottled_iff i).mpr hi]
    rw [throttle_clock_of_runs s hr]
    exact paced_of_aheadScaled_lt s hfreq ((throttleDone_spec s s.now).2 hfreq)

/-! ### Two programs that go on for ever (R447, R451) -/

/-- One step of a RUNNING core alone, for a word outside THROTTLED whose instruction leaves it RUNNING. -/
theorem step_of_not_throttled {s t : State} {i : Instr} {op : Word} (hr : s.run = .running) (hs : s.schedule = [])
    (hf : s.fetch = some op) (hdec : decodeWord op = .ok i) (hi : isThrottled i = false) (hexec : exec i s = .next t)
    (ht : t.run = .running) : step s = .next t.countCycle := by
  have hthrottle : s.throttle op false = s :=
    throttle_of_not_throttled s fun j hj => by
      obtain rfl := Except.ok.inj (hdec.symm.trans hj)
      exact hi
  exact (stepRunsTheDecodedInstruction false s s op i t hr (.inl ⟨hs, rfl, rfl⟩) hf hdec
    (by rw [hthrottle]; exact hexec)).1 ht

/-- s after k executions of 00EE on its empty stack. -/
def afterUnderflows (k : Nat) (s : State) : State :=
  { s with cycles := s.cycles + k, diagnostics := List.replicate k (.stackUnderflow s.PC) ++ s.diagnostics }

/-- One execution before k is k + 1 executions. -/
theorem afterUnderflows_succ (k : Nat) (s : State) :
    afterUnderflows k (s.logDiag (.stackUnderflow s.PC)).countCycle = afterUnderflows (k + 1) s := by
  simp only [afterUnderflows, State.countCycle, State.logDiag, List.replicate_succ', List.append_assoc,
    List.singleton_append, Nat.add_assoc, Nat.add_comm 1]

theorem run_of_underflow (k : Nat) {s : State} (hr : s.run = .running) (hs : s.schedule = []) (hst : s.stack = [])
    (hf : s.fetch = some 0x00EE#16) : Sys2Proof.core.run k s = .next (afterUnderflows k s) := by
  induction k generalizing s with
  | zero => rfl
  | succ k ih =>
    have hstep := step_of_not_throttled hr hs hf (Laws.RoundTrip.ret rfl) rfl (execRet_of_empty hst) hr
    rw [run_succ_of_step k hstep, ← afterUnderflows_succ]
    exact ih hr hs hst hf

/-- Settles O38: each step is one record and one count, and leaves a state of the same kind. -/
theorem stackUnderflowLivelocks : Obligations.StackUnderflowLivelocks := fun s k hr hs hst hf =>
  ⟨afterUnderflows k s, run_of_underflow k hr hs hst hf, rfl, hr, rfl⟩

/-- At a jump to itself the jump leaves PC. -/
theorem step_of_stopsAt {s : State} {a : Addr12} (hr : s.run = .running) (hs : s.schedule = []) (h : s.stopsAt a) :
    step s = .next s.countCycle := by
  obtain ⟨hpc, hf⟩ := h
  have hself : s.setPC (zext12 a) = s := by
    rw [← BitVec.eq_of_toNat_eq (hpc.trans (zext12_toNat a).symm)]
    rfl
  exact step_of_not_throttled hr hs hf (Laws.RoundTrip.jp a rfl) rfl (congrArg Host.Outcome.next hself) hr

/-- Settles O39: each step is one count, and leaves a state of the same kind. -/
theorem jumpToItselfRepeats : Obligations.JumpToItselfRepeats := by
  intro s a k hr hs h
  induction k generalizing s with
  | zero => rfl
  | succ k ih =>
    rw [run_succ_of_step k (step_of_stopsAt hr hs h), ih s.countCycle hr hs h, countCycle_cycles, Nat.add_assoc,
      Nat.add_comm 1]
    rfl

end Sys2Proof.Machine

/-! # What instructions leave, and what they cannot see

The units that each instruction may write, said once for all 35; that none reads the driver's fields; and that what FX55
stores is what a fetch reads. -/

namespace Sys2Proof.Machine

/-! ### FX0A's two outcomes (R249, phase 1) -/

section
variable {s : State} {x : RegIdx}

theorem execLdVxK_of_no_timeout (h : s.cfg.waitTimeout = none) :
    execLdVxK x s = .next (s.clearPending.setRun (.waitingKey x none)) := by
  simp only [execLdVxK, State.waitDeadline, clearPending_cfg, h]

theorem execLdVxK_of_timeout {ms : Nat} (h : s.cfg.waitTimeout = some ms) :
    execLdVxK x s =
      .next (s.clearPending.clockRead.setRun (.waitingKey x (some (s.now + 1000000 * ms)))) := by
  simp only [execLdVxK, State.waitDeadline, clearPending_cfg, h]
  rfl

end

/-! ### The units an instruction writes (R31 to R43, R79, R87) -/

/-- Each unit stands from s to t, or i is one of the instructions that may write it. A field left out is a unit that
stands by computation. -/
structure UnitsWritten (i : Instr) (s t : State) : Prop where
  registers : SameRegsBut (regsWritten i) s t := by exact fun _ _ => rfl
  memory : t.mem = s.mem ∨ ∃ x, i = .ldB x ∨ i = .ldMemVx x := by exact .inl rfl
  index : t.I = s.I ∨ (∃ nnn, i = .ldI nnn) ∨ ∃ x, i = .addI x ∨ i = .ldF x ∨
    (s.cfg.altIndex = false ∧ (i = .ldMemVx x ∨ i = .ldVxMem x)) := by exact .inl rfl
  stack : t.stack = s.stack ∨ i = .ret ∨ ∃ nnn, i = .call nnn := by exact .inl rfl
  delay : t.delayDeadline = s.delayDeadline ∨ ∃ x, i = .ldDtVx x := by exact .inl rfl
  sound : t.soundDeadline = s.soundDeadline ∨ ∃ x, i = .ldStVx x := by exact .inl rfl
  screen : (t.pixel = s.pixel ∧ t.modified = s.modified) ∨ i = .cls ∨ ∃ x y n, i = .drw x y n := by
    exact .inl ⟨rfl, rfl⟩
  pending : t.pending = s.pending ∨ ∃ x, i = .ldVxK x := by exact .inl rfl
  run : t.run = s.run ∨ (∃ x tEnd, i = .ldVxK x ∧ t.run = .waitingKey x tEnd) ∨
    ∃ status nnn, t.run = .halted status ∧ (i = .sys nnn ∨ i = .call nnn) := by exact .inl rfl

section
variable {i : Instr} {s t : State}

theorem unitsWritten_skipIf (c : Bool) : UnitsWritten i s (s.skipIf c) := by
  rw [skipIf_spec]
  exact {}

/-- A register write, after a read of the clock or of the random source at most. -/
theorem unitsWritten_setReg {x : RegIdx} (h : regsWritten i = [x]) (v : Byte) :
    UnitsWritten i s (s.setReg x v).advance :=
  { registers := h ▸ setReg_sameRegsBut s x v }

theorem unitsWritten_setWithFlag {x : RegIdx} (h : regsWritten i = [x, vf]) (r : Byte) (f : Bool) :
    UnitsWritten i s (s.setWithFlag x r f).advance := by
  have hregs : SameRegsBut (regsWritten i) s (s.setWithFlag x r f).advance := h ▸ setWithFlag_sameRegsBut s x r f
  rw [setWithFlag_only] at *
  exact { registers := hregs }

/-- The advance of I after a block is one write of I, of I itself under ALT_INDEX. -/
theorem unitsWritten_advanceIndex {x : RegIdx} {V : Vector Byte 16} {mem : List Host.Cell}
    (hi : i = .ldMemVx x ∨ i = .ldVxMem x) (hregs : SameRegsBut (regsWritten i) s { s with V := V, mem := mem })
    (hmem : mem = s.mem ∨ ∃ x, i = .ldB x ∨ i = .ldMemVx x) :
    UnitsWritten i s (State.advanceIndex x { s with V := V, mem := mem }).advance := by
  obtain ⟨v, hv, _, hkept⟩ := advanceIndex_eq_setI { s with V := V, mem := mem } x
  rw [hv]
  refine { registers := hregs, memory := hmem, index := ?_ }
  cases halt : s.cfg.altIndex with
  | true => exact .inl (hkept halt)
  | false => exact .inr (.inr ⟨x, .inr (.inr ⟨rfl, hi⟩)⟩)

theorem execLdVxMem_units {x : RegIdx} (h : execLdVxMem x s = .next t) : UnitsWritten (.ldVxMem x) s t := by
  unfold execLdVxMem at h
  split at h <;> injection h with h <;> subst h
  · exact {}
  · next bytes hread =>
    refine unitsWritten_advanceIndex (.inr rfl) (fun r hr => loadRegs_reg_of_ge ?_) (.inl rfl)
    by_contra hlt
    rw [(memRead_spec hread).2.1, blockLen] at hlt
    exact hr (List.mem_map.mpr ⟨r.toNat, List.mem_range.mpr (by omega), by rw [BitVec.ofNat_toNat, BitVec.setWidth_eq]⟩)

/-- The units written by every instruction. -/
theorem exec_units (h : exec i s = .next t) : UnitsWritten i s t := by
  cases i <;> simp only [exec] at h
  case ret =>
    unfold execRet at h
    split at h <;> injection h with h <;> subst h
    · exact {}
    · exact { stack := .inr (.inl rfl) }
  case sys nnn =>
    unfold execSys at h
    split at h <;> injection h with h <;> subst h
    · exact {}
    · exact { run := .inr (.inr ⟨_, nnn, rfl, .inl rfl⟩) }
  case call nnn =>
    unfold execCall at h
    split at h <;> injection h with h <;> subst h
    · exact { run := .inr (.inr ⟨_, nnn, rfl, .inr rfl⟩) }
    · exact { stack := .inr (.inr ⟨nnn, rfl⟩) }
  case drw x y n =>
    unfold execDrw at h
    split at h <;> injection h with h <;> subst h
    · exact {}
    · rw [drawSprite_only]
      exact { registers := setReg_sameRegsBut _ vf _, screen := .inr (.inr ⟨x, y, n, rfl⟩) }
  case ldB x =>
    unfold execLdB at h
    split at h <;> injection h with h <;> subst h
    · exact {}
    · next hwrite =>
      rw [(memWrite_spec hwrite).2]
      exact { memory := .inr ⟨x, .inl rfl⟩ }
  case ldMemVx x =>
    unfold execLdMemVx at h
    split at h <;> injection h with h <;> subst h
    · exact {}
    · next hwrite =>
      rw [(memWrite_spec hwrite).2]
      exact unitsWritten_advanceIndex (.inl rfl) (fun _ _ => rfl) (.inr ⟨x, .inr rfl⟩)
  case ldVxMem => exact execLdVxMem_units h
  case ldVxK x =>
    unfold execLdVxK at h
    injection h with h
    subst h
    obtain ⟨_, h⟩ | ⟨_, _, h⟩ := waitDeadline_cases s.clearPending <;> rw [h]
    all_goals exact { pending := .inr ⟨x, rfl⟩, run := .inr (.inl ⟨x, _, rfl, rfl⟩) }
  all_goals
    injection h with h
    subst h
  case seImm | sneImm | seReg | sneReg | skp | sknp => exact unitsWritten_skipIf _
  case addReg | subReg | subn | shr | shl => exact unitsWritten_setWithFlag rfl _ _
  case ldImm | addImm | ldReg | orReg | andReg | xorReg => exact unitsWritten_setReg rfl _
  case rnd x nn => exact { registers := setReg_sameRegsBut s.randomRead x _ }
  case ldVxDt x => exact { registers := setReg_sameRegsBut s.clockRead x _ }
  case cls => exact { screen := .inr (.inl rfl) }
  case ldI nnn => exact { index := .inr (.inl ⟨nnn, rfl⟩) }
  case addI x => exact { index := .inr (.inr ⟨x, .inl rfl⟩) }
  case ldF x => exact { index := .inr (.inr ⟨x, .inr (.inl rfl)⟩) }
  case ldDtVx x => exact { delay := .inr ⟨x, rfl⟩ }
  case ldStVx x => exact { sound := .inr ⟨x, rfl⟩ }
  case jp | jpV0 => exact {}

end

/-- Settles O18, from the units written by every instruction. -/
theorem instructionsWriteOnlyTheirRegisters : Obligations.InstructionsWriteOnlyTheirRegisters :=
  fun _ _ _ h => (exec_units h).registers

/-- Settles O19: a unit that changed is one that the instruction writes. -/
theorem instructionsWriteOnlyTheirUnits : Obligations.InstructionsWriteOnlyTheirUnits := by
  intro i s t h
  have hunits := exec_units h
  have heff := exec_effects h
  refine ⟨fun hi => ?memory, hunits.index.resolve_left, hunits.stack.resolve_left, hunits.delay.resolve_left,
    hunits.sound.resolve_left, fun hch => ?screen, fun hch => ?wait, fun hch => ?halt, heff.key, heff.cfg,
    heff.startTime, heff.cycles, heff.schedule⟩
  case memory =>
    have hmem : t.mem = s.mem := hunits.memory.resolve_right fun ⟨x, hx⟩ => hx.elim (hi x).1 (hi x).2
    exact ⟨fun a => readByte_congr heff.cfg hmem a, hmem⟩
  case screen =>
    exact hunits.screen.resolve_left fun ⟨hpixel, hmod⟩ => hch.elim (absurd hpixel) (absurd hmod)
  case wait =>
    obtain hpend | ⟨hrun, x, tEnd, hw⟩ := hch
    · exact hunits.pending.resolve_left hpend
    · obtain hsame | ⟨y, _, hi, _⟩ | ⟨_, _, hh, _⟩ := hunits.run
      · exact absurd hsame hrun
      · exact ⟨y, hi⟩
      · cases hw.symm.trans hh
  case halt =>
    obtain ⟨status, hrun, hh⟩ := hch
    obtain hsame | ⟨_, _, _, hw⟩ | ⟨_, nnn, _, hi⟩ := hunits.run
    · exact absurd hsame hrun
    · cases hh.symm.trans hw
    · exact ⟨nnn, hi⟩

/-! ### The driver's fields (R43, R48, R400) -/

/-- s with other values in the modified flag, the cycle counter and the diagnostics. -/
def State.withDriver (m : Bool) (n : Nat) (ds : List Diagnostic) (s : State) : State :=
  { s with modified := m, cycles := n, diagnostics := ds }

/-- u is t but for the modified flag, the cycle counter and the diagnostics. -/
def SameButDriver (t u : State) : Prop := u = t.withDriver u.modified u.cycles u.diagnostics

section
variable (m : Bool) (n : Nat) (ds : List Diagnostic) (s : State)

theorem skipIf_withDriver (c : Bool) : SameButDriver (s.skipIf c) ((s.withDriver m n ds).skipIf c) := by
  rw [skipIf_spec, skipIf_spec]
  rfl

theorem setWithFlag_withDriver (x : RegIdx) (r : Byte) (f : Bool) :
    SameButDriver (s.setWithFlag x r f).advance ((s.withDriver m n ds).setWithFlag x r f).advance := by
  have hcfg : (s.withDriver m n ds).cfg = s.cfg := rfl
  unfold State.setWithFlag
  rw [hcfg]
  split <;> rfl

theorem advanceIndex_withDriver (x : RegIdx) :
    SameButDriver (s.advanceIndex x).advance ((s.withDriver m n ds).advanceIndex x).advance := by
  rw [advanceIndex_spec, advanceIndex_spec]
  rfl

theorem drawSprite_withDriver (rows : List Byte) (x y : Byte) :
    SameButDriver ((s.drawSprite rows x y).1.setCollision (s.drawSprite rows x y).2).advance
      (((s.withDriver m n ds).drawSprite rows x y).1.setCollision
        ((s.withDriver m n ds).drawSprite rows x y).2).advance := by
  have hcfg : (s.withDriver m n ds).cfg = s.cfg := rfl
  unfold State.drawSprite
  rw [hcfg]
  split <;> rfl

/-- Every instruction, run on both states, goes the same way: no branch looks at the driver's fields. -/
theorem exec_withDriver (i : Instr) : ∃ t u, exec i s = .next t ∧ exec i (s.withDriver m n ds) = .next u ∧
    SameButDriver t u := by
  cases i <;> simp only [exec]
  case ret =>
    cases hst : s.stack with
    | nil => exact ⟨_, _, execRet_of_empty hst, execRet_of_empty (s := s.withDriver m n ds) hst, rfl⟩
    | cons => exact ⟨_, _, execRet_of_cons hst, execRet_of_cons (s := s.withDriver m n ds) hst, rfl⟩
  case sys =>
    cases hmode : s.cfg.sysMode with
    | nop => exact ⟨_, _, execSys_of_nop hmode, execSys_of_nop (s := s.withDriver m n ds) hmode, rfl⟩
    | fatal => exact ⟨_, _, execSys_of_fatal hmode, execSys_of_fatal (s := s.withDriver m n ds) hmode, rfl⟩
  case call =>
    by_cases hfull : s.cfg.stackLimit = some s.stack.length
    · exact ⟨_, _, execCall_of_full hfull, execCall_of_full (s := s.withDriver m n ds) hfull, rfl⟩
    · exact ⟨_, _, execCall_of_not_full hfull, execCall_of_not_full (s := s.withDriver m n ds) hfull, rfl⟩
  case drw x y k =>
    obtain hr | hr := Nat.lt_or_ge memSize (s.I.toNat + k.toNat)
    · exact ⟨_, _, execDrw_of_out_of_range s x y k hr, execDrw_of_out_of_range (s.withDriver m n ds) x y k hr, rfl⟩
    · have hread := memRead_eq_some (s := s) hr
      exact ⟨_, _, execDrw_of_read s x y k hread, execDrw_of_read (s.withDriver m n ds) x y k hread,
        drawSprite_withDriver m n ds s _ _ _⟩
  case ldB =>
    obtain hr | hr := Nat.lt_or_ge memSize (s.I.toNat + 3)
    · exact ⟨_, _, execLdB_of_out_of_range hr, execLdB_of_out_of_range (s := s.withDriver m n ds) hr, rfl⟩
    · exact ⟨_, _, execLdB_of_in_range hr, execLdB_of_in_range (s := s.withDriver m n ds) hr, rfl⟩
  case ldMemVx x =>
    obtain hr | hr := Nat.lt_or_ge memSize (s.I.toNat + (x.toNat + 1))
    · exact ⟨_, _, execLdMemVx_of_out_of_range hr, execLdMemVx_of_out_of_range (s := s.withDriver m n ds) hr, rfl⟩
    · exact ⟨_, _, execLdMemVx_of_in_range hr, execLdMemVx_of_in_range (s := s.withDriver m n ds) hr,
        advanceIndex_withDriver m n ds _ x⟩
  case ldVxMem x =>
    obtain hr | hr := Nat.lt_or_ge memSize (s.I.toNat + (x.toNat + 1))
    · exact ⟨_, _, execLdVxMem_of_out_of_range hr, execLdVxMem_of_out_of_range (s := s.withDriver m n ds) hr, rfl⟩
    · have hread := memRead_eq_some (s := s) hr
      exact ⟨_, _, execLdVxMem_of_read hread, execLdVxMem_of_read (s := s.withDriver m n ds) hread,
        advanceIndex_withDriver m n ds _ x⟩
  case ldVxK =>
    cases hw : s.cfg.waitTimeout with
    | none => exact ⟨_, _, execLdVxK_of_no_timeout hw, execLdVxK_of_no_timeout (s := s.withDriver m n ds) hw, rfl⟩
    | some => exact ⟨_, _, execLdVxK_of_timeout hw, execLdVxK_of_timeout (s := s.withDriver m n ds) hw, rfl⟩
  case seImm | sneImm | seReg | sneReg | skp | sknp => exact ⟨_, _, rfl, rfl, skipIf_withDriver m n ds s _⟩
  case addReg | subReg | subn | shr | shl => exact ⟨_, _, rfl, rfl, setWithFlag_withDriver m n ds s _ _ _⟩
  all_goals exact ⟨_, _, rfl, rfl, rfl⟩

end

/-- Settles O21: both states' instructions answer, and the answers differ in the driver's fields alone. -/
theorem programsCannotSeeTheDriversState : Obligations.ProgramsCannotSeeTheDriversState := by
  intro i s t m n ds h
  obtain ⟨t', u, ht, hu, hsame⟩ := exec_withDriver m n ds s i
  obtain rfl := Host.Outcome.next.inj (h.symm.trans ht)
  exact ⟨u, hu, hsame⟩

/-! ### Fetch coherence (R90) -/

/-- A fetch composes the two bytes that readByte gives at PC. -/
theorem fetch_of_readByte {s : State} {hi lo : Byte} (hhi : readByte s s.PC.toNat = some hi)
    (hlo : readByte s (s.PC.toNat + 1) = some lo) : s.fetch = some (composeWord hi lo) := by
  have hrange : s.PC.toNat + 1 < memSize := by
    by_contra hge
    rw [readByte, if_neg hge] at hlo
    cases hlo
  rw [readByte_eq_some (by omega), Option.some.injEq] at hhi hlo
  rw [fetch_eq_some hrange, hhi, hlo]

/-- Settles O44: V0 and V1 are the first two bytes of the block. -/
theorem storedBytesAreFetched : Obligations.StoredBytesAreFetched := by
  intro x s hw hrange hx
  obtain ⟨_, hstore, _⟩ := storeRegistersWritesTheBlock x s
  obtain ⟨t, hexec, hstored, _⟩ := hstore hw hrange
  have hhi : readByte (t.setPC s.I) s.I.toNat = some (s.reg 0#4) := hstored 0#4 (Nat.zero_le _)
  have hlo : readByte (t.setPC s.I) (s.I.toNat + 1) = some (s.reg 1#4) := hstored 1#4 hx
  exact ⟨t, _, hexec, fetch_of_readByte hhi hlo, composeWord_toNat _ _⟩

end Sys2Proof.Machine

/-! # Reset and the loader (10_state.md sections 14 and 15)

A loaded program by the equation of each of its two outcomes, and the state as constructed. -/

namespace Sys2Proof.Machine

/-! ### The loader (R54, R63, R443) -/

section
variable {s : State} {bytes : List Byte}

theorem loadProgram_of_fits (h : bytes.length ≤ 3584) :
    s.loadProgram bytes = { s with mem := Memory.putRange s.cfg 0x200 bytes s.mem } :=
  (loadProgram_cases s bytes).elim And.right fun hlong => absurd hlong.1 (Nat.not_lt.mpr h)

theorem loadProgram_of_too_long (h : 3584 < bytes.length) :
    s.loadProgram bytes = s.logDiag (.programTooLong bytes.length) :=
  (loadProgram_cases s bytes).elim (fun hfits => absurd h (Nat.not_lt.mpr hfits.1)) And.right

/-- A program that fits is read back at 0x200. -/
theorem readByte_loadProgram (hw : Memory.wf s.cfg s.mem = true) (h : bytes.length ≤ 3584) {j : Nat}
    (hj : j < bytes.length) : readByte (s.loadProgram bytes) (0x200 + j) = some bytes[j] := by
  have hrange : 0x200 + bytes.length ≤ memSize := by rw [memSize]; omega
  rw [loadProgram_of_fits h]
  exact readByte_of_putRange hw hrange (by rfl) (by rfl) hj

theorem move_load_of_before_first_step (hr : s.run = .running) (hc : s.cycles = 0) :
    s.move (.load bytes) = .next (s.loadProgram bytes) := by
  simp [State.move, State.beforeFirstStep, hr, hc]

theorem move_load_of_cycles_ne_zero (hc : s.cycles ≠ 0) : s.move (.load bytes) = .refused .loadAfterStart := by
  simp [State.move, State.beforeFirstStep, hc]

end

/-- Settles O14: the move is the load before the first step, and refused after it. -/
theorem loaderWritesAllOrNothing : Obligations.LoaderWritesAllOrNothing := by
  intro s bytes rest hr hs hw
  have hstep : step s = (s.setSchedule rest).move (.load bytes) :=
    step_of_schedule_cons (fun status => by simp [hr]) hs
  rw [hstep]
  refine ⟨fun hc hlen => ?fits, fun hc hlen => ?tooLong, fun hc => move_load_of_cycles_ne_zero hc⟩
  case fits =>
    refine ⟨_, move_load_of_before_first_step hr hc, ?frame, ?outside,
      fun j hj => readByte_loadProgram (s := s.setSchedule rest) hw hlen hj⟩
    all_goals rw [loadProgram_of_fits hlen]
    case frame => rfl
    case outside => exact sameMemoryOutside_of_putRange rfl rfl
  case tooLong =>
    refine ⟨_, move_load_of_before_first_step hr hc, ?_⟩
    rw [loadProgram_of_too_long hlen]
    exact ⟨rfl, fun _ => rfl⟩

/-! ### The state as constructed (R61) -/

section
variable (cfg : Config) (now : Nat)

theorem construct_reg (r : RegIdx) : (State.construct cfg now).reg r = 0#8 := Vector.getElem_replicate _

theorem construct_pixel (p : Fin 64 × Fin 32) : (State.construct cfg now).pixel.at p = false := Grid.at_blank p

theorem construct_keyDown (k : Nat) : ¬KeyDown (State.construct cfg now) k := by
  rintro ⟨hk, hdown⟩
  simp [State.construct] at hdown

/-- Memory holds the reset contents at every address. -/
theorem construct_readByte {a : Nat} (h : a < memSize) :
    readByte (State.construct cfg now) a = some (initialByte cfg a) :=
  readByte_of_mem_nil rfl h

/-- Both deadlines are the reading, so both timers read 0 from then on and the sound is off. -/
theorem construct_timers {t : Nat} (h : now ≤ t) : (State.construct cfg now).delayAt t = 0#8 ∧
    (State.construct cfg now).soundAt t = 0#8 ∧ (State.construct cfg now).soundActive t = false :=
  ⟨timerValue_eq_zero now t h, timerValue_eq_zero now t h, decide_eq_false (Nat.not_lt.mpr h)⟩

end

/-- The ranges of R15, as statements. -/
theorem Config.wf_iff (cfg : Config) : cfg.wf = true ↔ cfg.exitStatus ≠ 0 ∧ cfg.fontBase.toNat + 80 ≤ 4096 := by
  simp [Config.wf]

/-- Settles O13: unit by unit, with the font inside memory by the configuration's range. -/
theorem resetHoldsTheSpecifiedValues : Obligations.ResetHoldsTheSpecifiedValues := by
  refine ⟨rfl, fun cfg now hcfg => ⟨_, rfl, construct_reg cfg now, rfl, rfl, rfl, fun j hj => ?font,
    fun a ha hout => ?zero, rfl, rfl, rfl, fun t => construct_timers cfg now, construct_pixel cfg now, rfl,
    construct_keyDown cfg now, rfl, rfl, rfl, fun bytes j hlen hj => readByte_loadProgram Memory.wf_nil hlen hj⟩⟩
  case font =>
    have hfont := ((Config.wf_iff cfg).mp hcfg).2
    rw [construct_readByte cfg now (by rw [memSize]; omega), initialByte_font hj]
  case zero => rw [construct_readByte cfg now ha, initialByte_outside hout]

end Sys2Proof.Machine

/-! # The timers as time passes (44_timers.md R273 to R276, R449)

A timer's value in whole numbers, and what a run whose clock has no bound makes of a deadline that stands. -/

namespace Sys2Proof.Machine

/-! ### One timer -/

/-- As the clock goes on a timer's value never grows (R275). -/
theorem timerValue_antitone (d : Nat) {t t' : Nat} (h : t ≤ t') :
    (timerValue d t').toNat ≤ (timerValue d t).toNat := by
  rw [timerValue_toNat, timerValue_toNat, roundHalfUp, roundHalfUp]
  omega

/-- A timer just set to n reads n: the deadline is cut to whole nanoseconds, less than half a sixtieth (R273). -/
theorem timerValue_deadlineAfter (t : Nat) (n : Byte) : timerValue (deadlineAfter t n) t = n := by
  apply BitVec.eq_of_toNat_eq
  have := n.isLt
  rw [timerValue_toNat, roundHalfUp, deadlineAfter]
  omega

/-- Settles O50: it reads n at once, and does not grow. -/
theorem timerReadsTheValueSet : Obligations.TimerReadsTheValueSet := by
  refine fun t n => ⟨timerValue_deadlineAfter t n, fun t' h => ?_⟩
  calc (timerValue (deadlineAfter t n) t').toNat
      ≤ (timerValue (deadlineAfter t n) t).toNat := timerValue_antitone _ h
    _ = n.toNat := by rw [timerValue_deadlineAfter]

/-! ### In a run (R449) -/

/-- A deadline that stands from the n-th state on is passed for good. -/
theorem InfiniteRun.eventually_past {moves : Nat → Move} {r : Nat → State} (h : InfiniteRun moves r)
    (hclock : ClockUnbounded r) (deadline : State → Nat) {n : Nat}
    (hstands : ∀ k, n ≤ k → deadline (r k) = deadline (r n)) : ∃ m, ∀ k, m ≤ k → deadline (r k) ≤ (r k).clock := by
  obtain ⟨j, hj⟩ := hclock (deadline (r n))
  refine ⟨max n j, fun k hk => ?_⟩
  obtain ⟨_, _, hlater, _⟩ := h.goesForward (le_of_max_le_right hk)
  rw [hstands k (le_of_max_le_left hk)]
  exact hj.trans hlater

/-- Settles O49: the value depends on the deadline and the clock alone, and in the runs the deadline is passed. -/
theorem timersFallToZeroAndStay : Obligations.TimersFallToZeroAndStay := by
  refine ⟨fun d _ _ => timerValue_antitone d, timerValue_eq_zero, fun _ _ _ => ⟨rfl, rfl⟩,
    fun moves r n hrun hclock hstands => ?delay, fun moves r n hrun hclock hstands => ?sound⟩
  case delay =>
    obtain ⟨m, hpast⟩ := hrun.eventually_past hclock State.delayDeadline hstands
    refine ⟨m, fun k hk => ?_⟩
    have hzero : ∀ t, (r k).clock ≤ t → (r k).delayAt t = 0#8 := fun t ht =>
      timerValue_eq_zero _ t ((hpast k hk).trans ht)
    exact ⟨hzero, fun x => ⟨_, rfl, (setReg_advance_reg _ x _).trans (hzero _ (clock_le_now _))⟩⟩
  case sound =>
    obtain ⟨m, hpast⟩ := hrun.eventually_past hclock State.soundDeadline hstands
    exact ⟨m, fun k t hk ht => ⟨timerValue_eq_zero _ t ((hpast k hk).trans ht),
      decide_eq_false (Nat.not_lt.mpr ((hpast k hk).trans ht))⟩⟩

end Sys2Proof.Machine

/-! # The keypad's events and FX0A's wait (43_keyboard.md)

FX0A's two phases by their equations, a check of the slot by the case it meets, and the wait in an infinite run. -/

namespace Sys2Proof.Machine

/-! ### setKey (R242, R243) -/

/-- Settles O51: the step is setKey's, which changes nothing or one key and the slot. -/
theorem setKeyRecordsOnlyChanges : Obligations.SetKeyRecordsOnlyChanges := by
  intro s k pressed rest hr hs
  have hstep : step s = .next ((s.setSchedule rest).setKey k pressed) := step_of_schedule_cons hr hs
  obtain ⟨h, hsame⟩ | ⟨hk, hne, h⟩ := setKey_cases (s.setSchedule rest) k pressed <;> rw [h] at hstep
  · exact ⟨_, hstep, fun _ => rfl, fun _ _ => rfl, fun hk hne => absurd (hsame hk) hne⟩
  · refine ⟨_, hstep, fun hout => by omega, fun _ he => absurd he hne, fun _ _ => ?_⟩
    exact ⟨Vector.getElem_set_self hk, fun j hj hjk => Vector.getElem_set_ne hk hj hjk.symm, rfl, rfl⟩

/-! ### FX0A begins the wait (R249, phase 1) -/

/-- Settles O53: the two equations of phase 1. -/
theorem waitKeyBeginsTheWait : Obligations.WaitKeyBeginsTheWait := by
  refine fun x s => ⟨Laws.RoundTrip.ldVxK x rfl, rfl, ?_⟩
  cases hw : s.cfg.waitTimeout with
  | none => exact ⟨_, execLdVxK_of_no_timeout hw, fun _ => rfl, fun _ => rfl, nofun⟩
  | some ms =>
    refine ⟨_, execLdVxK_of_timeout hw, fun _ => rfl, nofun, fun ms' h => ?_⟩
    obtain rfl := Option.some.inj h
    exact ⟨clock_le_now s, rfl⟩

/-! ### One check of the slot (R249, phase 2, and R250) -/

section
variable {s : State} {x : RegIdx} {tEnd : Option Nat}

theorem resumeWait_of_event {e : KeyEvent} (he : s.pending = some e)
    (hq : s.cfg.waitReleaseOnly = true → e.pressed = false) :
    s.resumeWait x tEnd = s.clearPending.finishWait x (some e.key) := by
  unfold State.resumeWait
  rw [he]
  exact if_neg fun h => by simp_all

theorem resumeWait_of_dropped {e : KeyEvent} (he : s.pending = some e) (hrel : s.cfg.waitReleaseOnly = true)
    (hp : e.pressed = true) : s.resumeWait x tEnd = s.clearPending := by
  simp [State.resumeWait, he, hrel, hp]

theorem resumeWait_of_no_deadline (he : s.pending = none) : s.resumeWait x none = s := by
  simp only [State.resumeWait, he]

theorem resumeWait_of_before {T : Nat} (he : s.pending = none) (h : s.now < T) :
    s.resumeWait x (some T) = s.clockRead := by
  simp only [State.resumeWait, he, if_neg (Nat.not_le.mpr h)]

theorem resumeWait_of_passed {T : Nat} (he : s.pending = none) (h : T ≤ s.now) :
    s.resumeWait x (some T) = s.clockRead.finishWait x none := by
  simp only [State.resumeWait, he, if_pos h]

/-- With an empty slot and a deadline the check reads the clock (log 24). -/
theorem resumeWait_clock {T : Nat} (he : s.pending = none) : (s.resumeWait x (some T)).clock = s.now := by
  obtain h | h := Nat.lt_or_ge s.now T
  · rw [resumeWait_of_before he h, clockRead_clock]
  · rw [resumeWait_of_passed he h, finishWait_none, clockRead_clock]

theorem resumeWait_sameMemory : SameMemory s (s.resumeWait x tEnd) := by
  obtain ⟨_, _, _, h⟩ | ⟨_, _, _, _, h⟩ | ⟨_, _, h⟩ | ⟨_, _, _, _, h⟩ | ⟨_, _, _, _, h⟩ :=
    resumeWait_cases s x tEnd <;> rw [h] <;> exact fun _ => rfl

/-- The wait's end writes the key and advances: the frame of a register write and the advance. -/
theorem finishWait_some_frame (s : State) (x : RegIdx) (k : Fin 16) :
    ((s.finishWait x (some k)).reg x).toNat = k.val ∧ SameRegsBut [x] s (s.finishWait x (some k)) ∧
      NormalStep s (s.finishWait x (some k)) := by
  refine ⟨?_, setReg_sameRegsBut s x _, normalStep_of_PC rfl⟩
  have hreg : (s.finishWait x (some k)).reg x = BitVec.ofNat 8 k.val := setReg_reg_self s x _
  rw [hreg]
  exact Nat.mod_eq_of_lt (by omega)

theorem finishWait_none_frame (s : State) (x : RegIdx) :
    (s.finishWait x none).reg x = 0#8 ∧ SameRegsBut [x] s (s.finishWait x none) ∧
      NormalStep s (s.finishWait x none) :=
  ⟨setReg_reg_self s x _, setReg_sameRegsBut s x _, normalStep_of_PC rfl⟩

theorem coreStep_of_waiting {forceSync : Bool} (hr : s.run = .waitingKey x tEnd) :
    s.coreStep forceSync = .next (s.resumeWait x tEnd) := by
  simp only [State.coreStep, hr]

end

/-- Settles O54: the step is one check of the slot, which each clause's case decides. -/
theorem waitKeyEndsOnAnEventOrTimeout : Obligations.WaitKeyEndsOnAnEventOrTimeout := by
  intro forceSync s s' x tEnd hr hnext
  have hstep : step s = .next (s'.resumeWait x tEnd) := by
    rw [step_of_coreMovesNext hnext fun status => by simp [hr], coreStep_of_waiting (hnext.run.trans hr)]
  obtain ⟨rest, rfl⟩ : ∃ rest, s' = s.setSchedule rest := ⟨_, hnext.eq⟩
  refine ⟨_, hstep, resumeWait_sameMemory (s := s.setSchedule rest), fun e he hq => ?event,
    fun e he hrel hp => ?dropped, fun he hT => ?hold, fun T he hT => ?deadline⟩
  case event =>
    rw [resumeWait_of_event (s := s.setSchedule rest) he hq]
    obtain ⟨hkey, hregs, hpc⟩ := finishWait_some_frame (s.setSchedule rest).clearPending x e.key
    exact ⟨hkey, hregs, hpc, rfl⟩
  case dropped => rw [resumeWait_of_dropped (s := s.setSchedule rest) he hrel hp]; rfl
  case hold => rw [hT, resumeWait_of_no_deadline (s := s.setSchedule rest) he]
  case deadline =>
    rw [hT]
    have hclock := resumeWait_clock (s := s.setSchedule rest) (x := x) (T := T) he
    refine ⟨hclock ▸ clock_le_now s, fun hbefore => ?_, fun hpassed => ?_⟩
    · rw [hclock] at hbefore
      rw [resumeWait_of_before (s := s.setSchedule rest) he hbefore]
      rfl
    · rw [hclock] at hpassed
      rw [resumeWait_of_passed (s := s.setSchedule rest) he hpassed]
      obtain ⟨hkey, hregs, hpc⟩ := finishWait_none_frame (s.setSchedule rest).clockRead x
      exact ⟨hkey, hregs, hpc, rfl⟩

/-! ### The wait in a run (R244, R251) -/

/-- s waits, and has something to end the wait: an event in the slot, or a deadline. -/
def WaitsToEnd (x : RegIdx) (tEnd : Option Nat) (s : State) : Prop :=
  s.run = .waitingKey x tEnd ∧ (s.pending ≠ none ∨ tEnd ≠ none)

/-- An event in the slot qualifies: where only releases count it is no press. -/
def SlotQualifies (s : State) : Prop := ∀ e, s.pending = some e → s.cfg.waitReleaseOnly = true → e.pressed = false

section
variable {s t : State} {x : RegIdx} {tEnd : Option Nat} (hs : WaitsToEnd x tEnd s) (hq : SlotQualifies s)
include hs hq

/-- One check ends the wait or goes on waiting for a deadline the clock has not reached. -/
theorem resumeWait_of_waitsToEnd : (s.resumeWait x tEnd).run = .running ∨
    (WaitsToEnd x tEnd (s.resumeWait x tEnd) ∧ ∃ T, tEnd = some T ∧ s.clock < T) := by
  obtain ⟨_, _, _, h⟩ | ⟨e, he, hrel, hp, _⟩ | ⟨he, hT, _⟩ | ⟨T, _, hT, hlt, h⟩ | ⟨_, _, _, _, h⟩ :=
    resumeWait_cases s x tEnd
  · exact .inl (by rw [h]; rfl)
  · exact absurd hp (by rw [hq e he hrel]; exact Bool.false_ne_true)
  · exact absurd he (hs.2.resolve_right (not_not_intro hT))
  · exact .inr ⟨by rw [h]; exact ⟨hs.1, .inr (by simp [hT])⟩, T, hT, (clock_le_now s).trans_lt hlt⟩
  · exact .inl (by rw [h]; rfl)

/-- Every agent's move ends such a wait or leaves it: the slot is emptied only by a check, and no program is loaded. -/
theorem move_of_waitsToEnd {m : Move} (h : s.move m = .next t) : t.run = .running ∨ WaitsToEnd x tEnd t := by
  obtain ⟨_, _, hcore⟩ | ⟨k, pressed, _, rfl⟩ | ⟨_, _, ht, _⟩ | ⟨ns, _, rfl⟩ | ⟨_, _, _, hr, _⟩ := move_cases s h
  · rw [coreStep_of_waiting hs.1] at hcore
    obtain rfl := Host.Outcome.next.inj hcore
    exact (resumeWait_of_waitsToEnd hs hq).imp_right And.left
  · obtain ⟨h, _⟩ | ⟨_, _, h⟩ := setKey_cases s k pressed <;> rw [h]
    · exact .inr hs
    · exact .inr ⟨hs.1, .inl (Option.some_ne_none _)⟩
  · exact .inr (by rw [ht]; exact hs)
  · exact .inr hs
  · cases hr.symm.trans hs.1

/-- A check ends such a wait once the clock has reached its deadline, if it has one. -/
theorem coreStep_ends_wait {forceSync : Bool} (hT : ∀ T, tEnd = some T → T ≤ s.clock)
    (h : s.coreStep forceSync = .next t) : t.run = .running := by
  rw [coreStep_of_waiting hs.1] at h
  obtain rfl := Host.Outcome.next.inj h
  obtain hr | ⟨_, T, hT', hlt⟩ := resumeWait_of_waitsToEnd hs hq
  · exact hr
  · exact absurd (hT T hT') (Nat.not_le.mpr hlt)

end

/-- From some state on the clock has reached a wait's deadline, if it has one. -/
theorem FairRun.deadline_passed {moves : Nat → Move} {r : Nat → State} (h : FairRun moves r) (n : Nat)
    (tEnd : Option Nat) : ∃ N, n ≤ N ∧ ∀ k T, N ≤ k → tEnd = some T → T ≤ (r k).clock := by
  cases tEnd with
  | none => exact ⟨n, Nat.le_refl n, nofun⟩
  | some T =>
    obtain ⟨m, hm⟩ := h.clock T
    refine ⟨max n m, Nat.le_max_left n m, fun k T' hk hT' => ?_⟩
    obtain rfl := Option.some.inj hT'
    obtain ⟨_, _, hlater, _⟩ := h.steps.goesForward (le_of_max_le_right hk)
    exact hm.trans hlater

/-- The hold: a check that finds nothing is a step that changes nothing (R251). -/
theorem run_of_hold {s : State} {x : RegIdx} (k : Nat) (hr : s.run = .waitingKey x none) (he : s.pending = none)
    (hs : s.schedule = []) : Sys2Proof.core.run k s = .next s := by
  have hstep : step s = .next s := by
    rw [step_of_coreMovesNext (.inl ⟨hs, rfl, rfl⟩) fun status => by simp [hr], coreStep_of_waiting hr,
      resumeWait_of_no_deadline he]
  induction k with
  | zero => rfl
  | succ k ih => rw [run_succ_of_step k hstep, ih]

/-- Settles O55: the hold, and a fair run that never leaves its wait would check it past its deadline, which ends it. -/
theorem waitKeyHoldsForEver : Obligations.WaitKeyHoldsForEver := by
  refine ⟨fun _ _ k hr he hs => run_of_hold k hr he hs, fun moves r n x tEnd hfair hr hq hend => ?_⟩
  by_contra hnever
  have hnot : ∀ k, n ≤ k → (r k).run ≠ .running := fun k hk hrun => hnever ⟨k, hk, hrun⟩
  have hwaits : ∀ k, n ≤ k → WaitsToEnd x tEnd (r k) := by
    intro k hk
    induction hk with
    | refl => exact ⟨hr, hend⟩
    | @step k hk ih =>
      exact (move_of_waitsToEnd (s := (r k).setSchedule []) ih (hq k · hk)
        (hfair.steps.move_eq k)).resolve_left (hnot (k + 1) (Nat.le_succ_of_le hk))
  obtain ⟨N, hN, hpassed⟩ := hfair.deadline_passed n tEnd
  obtain ⟨k, forceSync, hk, hm⟩ := hfair.waiter N x tEnd (hwaits N hN).1
  have hnk := hN.trans hk
  have hmove := hfair.steps.move_eq k
  rw [hm] at hmove
  exact hnot (k + 1) (Nat.le_succ_of_le hnk)
    (coreStep_ends_wait (s := (r k).setSchedule []) (hwaits k hnk) (hq k · hnk) (hpassed k · hk) hmove)

end Sys2Proof.Machine

/-! # Two draws (42_display.md R215) -/

namespace Sys2Proof.Machine

section
variable {wrap : Bool} {rows : List Byte} (x y : Byte) (g : Grid) (hlen : rows.length ≤ 15)
include hlen

/-- A draw is its own inverse: it flips the covered pixels, whatever the grid. -/
theorem drawOn_drawOn : (drawOn wrap rows x y (drawOn wrap rows x y g).1).1 = g := by
  refine Grid.ext_at fun p => ?_
  obtain ⟨hcovered, huncovered⟩ := drawOn_at (wrap := wrap) x y g hlen p
  obtain ⟨hcovered', huncovered'⟩ := drawOn_at (wrap := wrap) x y (drawOn wrap rows x y g).1 hlen p
  by_cases hp : Covers wrap rows (x.toNat % 64) (y.toNat % 32) p
  · rw [hcovered' hp, hcovered hp, Bool.not_not]
  · rw [huncovered' hp, huncovered hp]

/-- The second draw collides with what the first turned on. -/
theorem drawOn_drawOn_collision : (drawOn wrap rows x y (drawOn wrap rows x y g).1).2 = true ↔
    ∃ p, g.at p = false ∧ (drawOn wrap rows x y g).1.at p = true := by
  rw [drawOn_collision x y _ hlen, drawOn_drawOn x y g hlen]
  exact exists_congr fun p => and_comm

end

/-- Settles O59: a rejected draw leaves the grid both times, an accepted one is drawOn's both times. -/
theorem drawingTwiceRestoresTheGrid : Obligations.DrawingTwiceRestoresTheGrid := by
  intro rows x y s t u hit hit' hlen hfirst hsecond
  by_cases hrejected : (64 ≤ x.toNat ∨ 32 ≤ y.toNat) ∧ s.cfg.screenOob = .reject
  · obtain ⟨hout, hcfg⟩ := hrejected
    cases (drawSprite_of_rejected s rows x y hout hcfg).symm.trans hfirst
    cases (drawSprite_of_rejected (s.logDiag (.drawRejected x y)) rows x y hout hcfg).symm.trans hsecond
    refine ⟨rfl, iff_of_false Bool.false_ne_true ?_⟩
    rintro ⟨p, hoff, hon⟩
    exact absurd (hoff.symm.trans hon) Bool.false_ne_true
  · have haccepted : (x.toNat < 64 ∧ y.toNat < 32) ∨ s.cfg.screenOob = .wrap := by
      cases hcfg : s.cfg.screenOob with
      | wrap => exact .inr rfl
      | reject =>
        simp only [hcfg, and_true] at hrejected
        exact .inl (by omega)
    cases (drawSprite_of_accepted s rows x y haccepted).symm.trans hfirst
    cases (drawSprite_of_accepted { s with pixel := _, modified := true } rows x y haccepted).symm.trans hsecond
    exact ⟨drawOn_drawOn x y s.pixel hlen, drawOn_drawOn_collision x y s.pixel hlen⟩

end Sys2Proof.Machine
